-- ==== Sys2Proof/Word.lean ====
section
/-! DEFINITION. The word types of the block (10_state.md R20, 30_encoding.md R70). -/

namespace Sys2Proof

/-- An 8-bit field: a selector, an operand `b` or `c`, a decay rate, a divider, a counter, a note number, an output sample. -/
abbrev Byte := BitVec 8

/-- A 16-bit register, table entry or operand `a`. -/
abbrev Word := BitVec 16

/-- One 48-bit event word (R70). -/
abbrev EventWord := BitVec 48

end Sys2Proof
end

