-- ==== Sys2Proof/Syntax.lean ====
section
/-! DEFINITION. The sixteen events of the opcode map (30_encoding.md R73), with their operands as the event word carries them
(R71, R72), and the five fields of an event word (R70). A selector is kept as its eight bits: whether it names an accumulator,
an envelope or a grain is checked by `Instr.wellFormed` (R74, R76). -/

namespace Sys2Proof

/-- The five fixed fields of an event word (R70). -/
structure Fields where
  op : Byte
  sel : Byte
  a : Word
  b : Byte
  c : Byte
deriving DecidableEq, Repr

/-- One constructor per row of R73; the operands are the fields the row's format uses (R71). -/
inductive Instr where
  /-- `NOP` (R157), format Z. -/
  | nop
  /-- `TICK` (R145), format Z. -/
  | tick
  /-- `PA_SETINC k, v` (R92), format SA. -/
  | paSetinc (sel : Byte) (a : Word)
  /-- `PA_MODULATE k, delta` (R93), format SA. -/
  | paModulate (sel : Byte) (a : Word)
  /-- `PA_ADVANCE k` (R94), format S. -/
  | paAdvance (sel : Byte)
  /-- `PA_SETINC_CHROMA k, p` (R179), format SB. -/
  | paSetincChroma (sel : Byte) (b : Byte)
  /-- `PA_SETINC_ANTILOG k, c` (R180), format SA. -/
  | paSetincAntilog (sel : Byte) (a : Word)
  /-- `PA_SETINC_CHROMAK k, c` (R181), format SA. -/
  | paSetincChromak (sel : Byte) (a : Word)
  /-- `PA_SETINC_PENTA k, c` (R182), format SA. -/
  | paSetincPenta (sel : Byte) (a : Word)
  /-- `ENV_RESET e, amp, dec, div` (R113), format SABC. -/
  | envReset (sel : Byte) (a : Word) (b c : Byte)
  /-- `ENV_SETDECAY e, dec, div` (R114), format SBC. -/
  | envSetdecay (sel : Byte) (b c : Byte)
  /-- `ENV_TICK e` (R115), format S. -/
  | envTick (sel : Byte)
  /-- `GR_RESET g` (R135), format S. -/
  | grReset (sel : Byte)
  /-- `NOTE_ON n, v` (R191, R192), format BC. -/
  | noteOn (b c : Byte)
  /-- `NOTE_OFF n` (R193), format B. -/
  | noteOff (b : Byte)
  /-- `PITCHBEND value` (R194), format A. -/
  | pitchbend (a : Word)
deriving DecidableEq, Repr

end Sys2Proof
end

