-- ==== Sys2Proof/WellFormed.lean ====
section
/-! DEFINITION. Which instructions are well formed: the selector is not reserved (30_encoding.md R74, R76). No other operand has
a reserved value: `a`, `b` and `c` take every value of their width (R72). -/

namespace Sys2Proof

/-- The selector values that name an accumulator: 0 to 3 (R74). -/
def isAccSel (sel : Byte) : Bool := decide (sel.toNat < 4)

/-- The selector values that name an envelope: 0 to 2 (R74). -/
def isEnvSel (sel : Byte) : Bool := decide (sel.toNat < 3)

/-- The selector values that name a grain: 0 and 1 (R74). -/
def isGrainSel (sel : Byte) : Bool := decide (sel.toNat < 2)

/-- The selector an instruction carries is one its family defines (R74, R76); formats Z, BC, B and A carry none. -/
def Instr.wellFormed : Instr → Bool
  | .nop => true
  | .tick => true
  | .paSetinc sel _ => isAccSel sel
  | .paModulate sel _ => isAccSel sel
  | .paAdvance sel => isAccSel sel
  | .paSetincChroma sel _ => isAccSel sel
  | .paSetincAntilog sel _ => isAccSel sel
  | .paSetincChromak sel _ => isAccSel sel
  | .paSetincPenta sel _ => isAccSel sel
  | .envReset sel _ _ _ => isEnvSel sel
  | .envSetdecay sel _ _ => isEnvSel sel
  | .envTick sel => isEnvSel sel
  | .grReset sel => isGrainSel sel
  | .noteOn _ _ => true
  | .noteOff _ => true
  | .pitchbend _ => true

end Sys2Proof
end

