-- ==== Sys2Proof/Decode.lean ====
section
/-! DEFINITION. Decoding and encoding of event words (30_encoding.md). Decoding of a 48-bit word is total (R81): the opcode alone
selects the row (R73), fields the row does not use are ignored (R77), a reserved opcode (R75) or a reserved selector (R76) is
`NOP`. Event words stored as bytes are big-endian (20_memory.md R54). -/

namespace Sys2Proof

/-- The five fields of an event word: `op` 47:40, `sel` 39:32, `a` 31:16, `b` 15:8, `c` 7:0 (R70). -/
def fieldsOf (w : EventWord) : Fields :=
  { op := w.extractLsb' 40 8, sel := w.extractLsb' 32 8, a := w.extractLsb' 16 16, b := w.extractLsb' 8 8, c := w.extractLsb' 0 8 }

/-- The event word with the given five fields (R70). -/
def wordOf (f : Fields) : EventWord := f.op ++ f.sel ++ f.a ++ f.b ++ f.c

/-- The row of R73 that the opcode selects, with the operands of its format (R71); a reserved opcode selects `NOP` (R75). -/
def rowOf (f : Fields) : Instr :=
  match f.op.toNat with
  | 0x00 => .nop
  | 0x01 => .tick
  | 0x10 => .paSetinc f.sel f.a
  | 0x11 => .paModulate f.sel f.a
  | 0x12 => .paAdvance f.sel
  | 0x18 => .paSetincChroma f.sel f.b
  | 0x19 => .paSetincAntilog f.sel f.a
  | 0x1A => .paSetincChromak f.sel f.a
  | 0x1B => .paSetincPenta f.sel f.a
  | 0x20 => .envReset f.sel f.a f.b f.c
  | 0x21 => .envSetdecay f.sel f.b f.c
  | 0x22 => .envTick f.sel
  | 0x30 => .grReset f.sel
  | 0x40 => .noteOn f.b f.c
  | 0x41 => .noteOff f.b
  | 0x42 => .pitchbend f.a
  | _ => .nop

/-- The sixteen opcodes in use (R73). Every other value is reserved (R75). -/
def usedOpcodes : List Byte :=
  [0x00, 0x01, 0x10, 0x11, 0x12, 0x18, 0x19, 0x1A, 0x1B, 0x20, 0x21, 0x22, 0x30, 0x40, 0x41, 0x42]

/-- The row with its selector checked: a reserved selector gives `NOP` (R76, R81, R205 (g)). -/
def decodeFields (f : Fields) : Instr := if (rowOf f).wellFormed then rowOf f else .nop

/-- The one meaning of each of the 2^48 event words (R81). -/
def decodeWord (w : EventWord) : Instr := decodeFields (fieldsOf w)

/-- The six bytes of an event word, most significant first: opcode, selector, `a` high, `a` low, `b`, `c` (R54). -/
def bytesOfWord (w : EventWord) : List Byte :=
  [w.extractLsb' 40 8, w.extractLsb' 32 8, w.extractLsb' 24 8, w.extractLsb' 16 8, w.extractLsb' 8 8, w.extractLsb' 0 8]

/-- The event word of six bytes, most significant first (R54). -/
def wordOfBytes (b0 b1 b2 b3 b4 b5 : Byte) : EventWord := b0 ++ b1 ++ b2 ++ b3 ++ b4 ++ b5

/-- Why the byte-level decoder gives no instruction. -/
inductive DecodeError where
  /-- Raised by `decode` when fewer than the six bytes of one event word are left. Safe: the block itself takes whole words
  (R55) and never sees such an input. -/
  | truncated (available : Nat)
deriving DecidableEq, Repr

/-- The instruction at the head of a byte stream of event words (R54, R78), with the rest of the stream. -/
def decode : List Byte → Except DecodeError (Instr × List Byte)
  | b0 :: b1 :: b2 :: b3 :: b4 :: b5 :: rest => .ok (decodeWord (wordOfBytes b0 b1 b2 b3 b4 b5), rest)
  | short => .error (.truncated short.length)

/-- The fields of an instruction's word, 0 in every field its format does not use (R71, R73, R77). -/
def encodeFields : Instr → Fields
  | .nop => ⟨0x00, 0, 0, 0, 0⟩
  | .tick => ⟨0x01, 0, 0, 0, 0⟩
  | .paSetinc sel a => ⟨0x10, sel, a, 0, 0⟩
  | .paModulate sel a => ⟨0x11, sel, a, 0, 0⟩
  | .paAdvance sel => ⟨0x12, sel, 0, 0, 0⟩
  | .paSetincChroma sel b => ⟨0x18, sel, 0, b, 0⟩
  | .paSetincAntilog sel a => ⟨0x19, sel, a, 0, 0⟩
  | .paSetincChromak sel a => ⟨0x1A, sel, a, 0, 0⟩
  | .paSetincPenta sel a => ⟨0x1B, sel, a, 0, 0⟩
  | .envReset sel a b c => ⟨0x20, sel, a, b, c⟩
  | .envSetdecay sel b c => ⟨0x21, sel, 0, b, c⟩
  | .envTick sel => ⟨0x22, sel, 0, 0, 0⟩
  | .grReset sel => ⟨0x30, sel, 0, 0, 0⟩
  | .noteOn b c => ⟨0x40, 0, 0, b, c⟩
  | .noteOff b => ⟨0x41, 0, 0, b, 0⟩
  | .pitchbend a => ⟨0x42, 0, a, 0, 0⟩

/-- The event word of an instruction (R70, R73). -/
def encode (i : Instr) : EventWord := wordOf (encodeFields i)

/-- The six bytes of an instruction's event word (R54). -/
def encodeBytes (i : Instr) : List Byte := bytesOfWord (encode i)

/-- The event word whose 48 bits are `w` as spec/opcode_table.json numbers them (`op` in 47:40); bits at and above `nbits` are 0. -/
def tableWord (nbits w : Nat) : EventWord := BitVec.ofNat 48 (w % 2 ^ nbits)

/-- What the decoder reads from a row's word: laid out as its six bytes (R54) and decoded from them. No event word is longer than
48 bits (R78), so a longer instruction is none. -/
def decodeTableWord (nbits w : Nat) : Option Instr :=
  if nbits ≤ 48 then
    match decode (bytesOfWord (tableWord nbits w)) with
    | .ok (i, _) => some i
    | .error _ => none
  else none

end Sys2Proof
end

