-- ==== Sys2Proof/Config.lean ====
section
/-! DEFINITION. What the spec leaves as a parameter (00_scope.md R6, R7; 93_implementation_defined.md U7 to U9) and the free value
`any16()` (R10, R178). The default values of the parameters are in Machine/Tables.lean. -/

namespace Sys2Proof

/-- The parameters of the block. A statement that is to hold whatever the tables hold quantifies over this type (R7). -/
structure Params where
  /-- `ANTILOG`, 64 entries of 16 bits (R174). -/
  antilog : Fin 64 → Word
  /-- `PENTA`, 54 entries of 16 bits (R177). -/
  penta : Fin 54 → Word
  /-- `WAVE`, 512 entries of 8 bits (R138). -/
  wave : Fin 512 → Byte
  /-- `GRAIN_FULL_SCALE`: the amplitude a grain reset loads (R131). -/
  grainFullScale : Word
  /-- `OUT_SHIFT`: right shift of the mix before centring (R152). -/
  outShift : Nat
  /-- `OUT_CENTER`: offset between the unsigned and the centred range (R152). -/
  outCenter : Int
  /-- `MASTER_SHIFT`: right shift after the master-volume multiply (R152). -/
  masterShift : Nat
  /-- `MASTER_DECAY`: decay rate given to the master envelope by note-on (R191). -/
  masterDecay : Byte
  /-- `MASTER_DIVIDER`: divider given to the master envelope by note-on (R191). -/
  masterDivider : Byte
  /-- `SYNC_OFFSET0`: semitones subtracted from the key number for sync accumulator 0 (R191, R198). -/
  syncOffset0 : Int
  /-- `SYNC_OFFSET1`: semitones subtracted from the key number for sync accumulator 1 (R191, R198). -/
  syncOffset1 : Int
  /-- `BEND_CENTER`: the pitch-bend value that means no offset (R194). -/
  bendCenter : Int
  /-- `PWM_RESET`: the output register after reset (R36). -/
  pwmReset : Byte

/-- `any16()` (R10): the value of the n-th draw. It has no body, so nothing can be proved about it but that it is one of the 65536
values; the state's counter `draws` supplies a fresh argument at each draw (R178). -/
opaque Config.any16 : Nat → Word

end Sys2Proof
end

