-- ==== Sys2Proof/Machine/Tables.lean ====
section
/-! DEFINITION. The contents of the read-only tables (10_state.md R31: no event writes them) and the default parameters. `CHROMA` is
fixed by the document's formula (44_lookup_tables.md R171); the others are the spec's defaults (R174, R177, 42_grain.md R138,
00_scope.md R6). -/

namespace Sys2Proof.Machine

/-- The rows of R171, entries 0 to 127. -/
def chromaRows : List Word :=
  [17, 18, 19, 20, 22, 23, 24, 26,
   27, 29, 31, 32, 34, 36, 38, 41,
   43, 46, 48, 51, 54, 58, 61, 65,
   69, 73, 77, 82, 86, 92, 97, 103] ++
  [109, 115, 122, 129, 137, 145, 154, 163,
   173, 183, 194, 206, 218, 231, 244, 259,
   274, 291, 308, 326, 346, 366, 388, 411,
   435, 461, 489, 518, 549, 581, 616, 652] ++
  [691, 732, 776, 822, 871, 923, 978, 1036,
   1097, 1163, 1232, 1305, 1383, 1465, 1552, 1644,
   1742, 1845, 1955, 2071, 2195, 2325, 2463, 2610,
   2765, 2930, 3104, 3288, 3484, 3691, 3910, 4143] ++
  [4389, 4650, 4927, 5220, 5530, 5859, 6207, 6577,
   6968, 7382, 7821, 8286, 8779, 9301, 9854, 10440,
   11060, 11718, 12415, 13153, 13935, 14764, 15642, 16572,
   17557, 18601, 19708, 20879, 22121, 23436, 24830, 26306]

theorem chromaRows_length : chromaRows.length = 128 := by simp [chromaRows]

/-- `CHROMA` (R171): 128 entries of 16 bits. -/
def chroma (p : Fin 128) : Word := chromaRows[p.val]'(by rw [chromaRows_length]; exact p.isLt)

/-- The rows of R174, entries 0 to 63. -/
def antilogRows : List Word :=
  [64830, 64132, 63441, 62757, 62081, 61413, 60751, 60097,
   59449, 58809, 58176, 57549, 56929, 56316, 55709, 55109,
   54515, 53928, 53347, 52773, 52204, 51642, 51085, 50535,
   49991, 49452, 48920, 48393, 47871, 47356, 46846, 46341] ++
  [45842, 45348, 44859, 44376, 43898, 43425, 42958, 42495,
   42037, 41584, 41136, 40693, 40255, 39821, 39392, 38968,
   38548, 38133, 37722, 37316, 36914, 36516, 36123, 35734,
   35349, 34968, 34591, 34219, 33850, 33486, 33125, 32768]

theorem antilogRows_length : antilogRows.length = 64 := by simp [antilogRows]

/-- The default contents of `ANTILOG` (R174): 64 entries of 16 bits. -/
def antilogDefault (i : Fin 64) : Word := antilogRows[i.val]'(by rw [antilogRows_length]; exact i.isLt)

/-- The rows of R177, entries 0 to 53. -/
def pentaRows : List Word :=
  [0, 19, 22, 26, 29, 32, 38, 43, 51,
   58, 65, 77, 86, 103, 115, 129, 154, 173,
   206, 231, 259, 308, 346, 411, 461, 518, 616,
   691, 822, 923, 1036, 1232, 1383, 1644, 1845, 2071] ++
  [2463, 2765, 3288, 3691, 4143, 4927, 5530, 6577, 7382,
   8286, 9854, 11060, 13153, 14764, 16572, 19708, 22121, 26306]

theorem pentaRows_length : pentaRows.length = 54 := by simp [pentaRows]

/-- The default contents of `PENTA` (R177): 54 entries of 16 bits. -/
def pentaDefault (i : Fin 54) : Word := pentaRows[i.val]'(by rw [pentaRows_length]; exact i.isLt)

/-- The default contents of `WAVE` (R138): entry i is `i >> 1`, so that the nine high bits of a position give its high byte. -/
def waveDefault (i : Fin 512) : Byte := BitVec.ofNat 8 (i.val >>> 1)

/-- `SAMPLE_RATE` (R6): used by no event, only by the formula that produces `CHROMA` (R171). -/
def sampleRate : Nat := 31250

/-- The parameters of this hardware: the defaults of R6, R138, R174 and R177. -/
def params : Params where
  antilog := antilogDefault
  penta := pentaDefault
  wave := waveDefault
  grainFullScale := 0x7FFF
  outShift := 8
  outCenter := 128
  masterShift := 7
  masterDecay := 1
  masterDivider := 4
  syncOffset0 := 24
  syncOffset1 := 17
  bendCenter := 8192
  pwmReset := 0x80

end Sys2Proof.Machine
end

