-- ==== Sys2Proof/Machine/State.lean ====
section
/-! DEFINITION. The state of the block (10_state.md R20): 293 bits and the output trace, and beside them two fields of the model's
own, the events still to be applied and the counter of free values. The reset values are those of R36. -/

namespace Sys2Proof.Machine

/-- A phase accumulator: position and increment (R21). -/
structure PhaseAcc where
  pos : Word
  inc : Word
deriving DecidableEq, Repr

/-- An envelope: amplitude, decay rate, divider and counter (R26). -/
structure Envelope where
  amp : Word
  dec : Byte
  div : Byte
  cnt : Byte
deriving DecidableEq, Repr

/-- The gate of the note (R24): `closed` is bit value 0, `opened` is bit value 1. -/
inductive Gate where
  | closed
  | opened
deriving DecidableEq, Repr

/-- The note's key number and velocity (R28). -/
structure Note where
  num : Byte
  vel : Byte
deriving DecidableEq, Repr

/-- The whole state (R20). -/
structure State where
  /-- `acc[0]` SYNC0, `acc[1]` SYNC1, `acc[2]` GRAIN0, `acc[3]` GRAIN1 (R21, R38). -/
  acc : Vector PhaseAcc 4
  /-- `ovf[k]`: did the most recent advance of accumulator k wrap (R25)? -/
  ovf : Vector Bool 4
  /-- `env[0]` MASTER, `env[1]` GENV0, `env[2]` GENV1 (R26, R38). -/
  env : Vector Envelope 3
  /-- `gate` (R24). -/
  gate : Gate
  /-- `note.num`, `note.vel` (R28). -/
  note : Note
  /-- `mix`: the sum of the two grain samples of the most recent TICK (R29). -/
  mix : Word
  /-- `pwm`: the last sample written (R30). -/
  pwm : Byte
  /-- `out`: the samples written, oldest first (R30). -/
  out : List Byte
  /-- THE MODEL'S OWN (DESIGN CHOICE, log 1): the event words of the run (R11) that are still to be applied, the next one first. -/
  events : List EventWord
  /-- THE MODEL'S OWN (DESIGN CHOICE, log 3): how many `any16()` values (R178) have been drawn. -/
  draws : Nat
deriving DecidableEq, Repr

/-- The faults of a step. There are none: "The block raises no synchronous exception" (60_exceptions.md R210). -/
inductive Fault where
deriving DecidableEq, Repr

/-- Why a step gives no meaning to an instruction. -/
inductive Refusal where
  /-- Raised by `exec` for an instruction the model gives no meaning; no arm of `exec` raises it. Safe: the model stops. -/
  | notModelled (mnemonic : String)
deriving DecidableEq, Repr

/-- The state after reset (R36): every field 0, the gate CLOSED, `pwm` at `PWM_RESET`, the trace empty. The model's own fields
start with no event and no draw (logs 1 and 3). -/
def State.reset : State where
  acc := Vector.replicate 4 ⟨0, 0⟩
  ovf := Vector.replicate 4 false
  env := Vector.replicate 3 ⟨0, 0, 0, 0⟩
  gate := .closed
  note := ⟨0, 0⟩
  mix := 0
  pwm := params.pwmReset
  out := []
  events := []
  draws := 0

end Sys2Proof.Machine
end

