-- ==== Sys2Proof/Machine/Operands.lean ====
section
/-! DEFINITION. Every operand form of the event words: the three selector spaces (30_encoding.md R74, R76), the pitch number, the
control reading, the key offset and the bend value, and the index computations of the table lookups (46_arithmetic_flow_access.md
R206). A lookup outside its contract range has no value of its own (`none`): it is `any16()` (44_lookup_tables.md R178). -/

namespace Sys2Proof.Machine

/-- The accumulator a selector names, none where it is reserved; all eight bits are compared (R74, R76). -/
def accOf (sel : Byte) : Option (Fin 4) := if h : sel.toNat < 4 then some ⟨sel.toNat, h⟩ else none

/-- The envelope a selector names, none where it is reserved (R74, R76). -/
def envOf (sel : Byte) : Option (Fin 3) := if h : sel.toNat < 3 then some ⟨sel.toNat, h⟩ else none

/-- The grain a selector names, none where it is reserved (R74, R76). -/
def grainOf (sel : Byte) : Option (Fin 2) := if h : sel.toNat < 2 then some ⟨sel.toNat, h⟩ else none

/-- An event on the accumulator a selector names; a reserved selector makes it a NOP (R76). -/
def onAcc (sel : Byte) (f : Fin 4 → State → State) (s : State) : State :=
  match accOf sel with
  | some k => f k s
  | none => s

/-- An event on the envelope a selector names; a reserved selector makes it a NOP (R76). -/
def onEnv (sel : Byte) (f : Fin 3 → State → State) (s : State) : State :=
  match envOf sel with
  | some e => f e s
  | none => s

/-- An event on the grain a selector names; a reserved selector makes it a NOP (R76). -/
def onGrain (sel : Byte) (f : Fin 2 → State → State) (s : State) : State :=
  match grainOf sel with
  | some g => f g s
  | none => s

/-- The accumulator of grain g is `acc[2+g]` (R38, R130). -/
def grainAcc (g : Fin 2) : Fin 4 := ⟨2 + g.val, by omega⟩

/-- The envelope of grain g is `env[1+g]` (R38, R130). -/
def grainEnv (g : Fin 2) : Fin 3 := ⟨1 + g.val, by omega⟩

/-- The sync accumulator that retriggers grain g is `acc[g]` (R38, R130). -/
def syncAcc (g : Fin 2) : Fin 4 := ⟨g.val, by omega⟩

/-- Bits 15:8 of a 16-bit value: the part of an amplitude the mixer and the output stage use (R112). -/
def highByte (v : Word) : Byte := v.extractLsb' 8 8

/-- The index into `WAVE`: the nine high bits of a position, `pos[15:7]` (R133, R138). -/
def waveIndex (pos : Word) : Fin 512 := (pos.extractLsb' 7 9).toFin

/-- The master amplitude a note-on loads: velocity * 256 (R191). -/
def velocityAmp (c : Byte) : Word := BitVec.ofNat 16 (c.toNat <<< 8)

/-- The key number less an offset, as an integer that may be negative (R191). -/
def keyOffset (b : Byte) (offset : Int) : Int := (b.toNat : Int) - offset

/-- The phase offset of a bend value: `a[13:0] - BEND_CENTER`, reduced modulo 2^16; bits 15:14 are ignored (R194). -/
def bendDelta (p : Params) (a : Word) : Word := BitVec.ofInt 16 (((a.extractLsb' 0 14).toNat : Int) - p.bendCenter)

/-- `ChromaByPitch(p)` (R173): the table by pitch number, defined for 0 to 127. -/
def chromaByPitch (p : Int) : Option Word :=
  if h : 0 ≤ p ∧ p ≤ 127 then some (chroma ⟨p.toNat, by omega⟩) else none

/-- `ChromaByControl(c)` (R175): entry `(1023 - c) >> 3`, defined for 0 to 1023. -/
def chromaByControl (c : Nat) : Option Word :=
  if c ≤ 1023 then some (chroma ⟨(1023 - c) >>> 3, by rw [Nat.shiftRight_eq_div_pow]; omega⟩) else none

/-- `AntilogByControl(c)` (R176): entry `c[5:0]` shifted right by `c[9:6]`, defined for 0 to 1023. -/
def antilogByControl (p : Params) (c : Nat) : Option Word :=
  if c ≤ 1023 then some (p.antilog ⟨c % 64, Nat.mod_lt _ (by decide)⟩ >>> (c / 64)) else none

/-- `PentaByControl(c)` (R183): entry `(1023 - c) div 19`, defined for 0 to 1023. -/
def pentaByControl (p : Params) (c : Nat) : Option Word :=
  if c ≤ 1023 then some (p.penta ⟨(1023 - c) / 19, by omega⟩) else none

end Sys2Proof.Machine
end

