-- ==== Sys2Proof/Machine/Flags.lean ====
section
/-! DEFINITION. Every flag and condition the events compute (46_arithmetic_flow_access.md R205): the overflow compare of an advance,
the divider compare of an envelope, the key match of a release, and the bits of `STATUS` (10_state.md R33). -/

namespace Sys2Proof.Machine

/-- The overflow of an advance: the position after is less than the position before, both unsigned (R90). -/
def wrapped (before after : Word) : Bool := decide (after.toNat < before.toNat)

/-- The divider compare: the counter has reached the divider, "greater or equal", both unsigned (R110). -/
def dividerReached (cnt div : Byte) : Bool := decide (div.toNat ≤ cnt.toNat)

/-- A release names the held key: all eight bits are compared (R192, R193). -/
def keyHeld (b : Byte) (s : State) : Bool := decide (b = s.note.num)

/-- The gate as a bit: 0 CLOSED, 1 OPEN (R24). -/
def gateBit : Gate → Bool
  | .closed => false
  | .opened => true

/-- `STATUS` (R33): bit 0 `gate`, bits 1 to 4 `ovf[0]` to `ovf[3]`, bits 15:5 zero. -/
def statusWord (s : State) : Word :=
  BitVec.ofNat 16
    ((gateBit s.gate).toNat + 2 * s.ovf[0].toNat + 4 * s.ovf[1].toNat + 8 * s.ovf[2].toNat + 16 * s.ovf[3].toNat)

end Sys2Proof.Machine
end

