-- ==== Sys2Proof/Machine/Ops.lean ====
section
/-! DEFINITION. The named operations over the registers and the micro-operations the events share (00_scope.md R9, R10): register
writes, `Advance` (R90), `EnvTick` (R110), `EnvReset` (R111), `GrainReset` (R131), `Sample` (R133), `Finalise` (R152), the seven
steps of `TICK` (R146 to R153), the table-driven increment with its free value (R178), and taking the next event (R11). The block
takes no exception and returns from none (60_exceptions.md R210, R215, R216), so there is no operation for either. -/

namespace Sys2Proof.Machine

/-! ### Register writes (R9): no write to one name changes another (R38) -/

/-- `acc[k].pos <- v`. -/
def State.setPos (s : State) (k : Fin 4) (v : Word) : State := { s with acc := s.acc.set k { s.acc[k] with pos := v } }

/-- `acc[k].inc <- v`. -/
def State.setInc (s : State) (k : Fin 4) (v : Word) : State := { s with acc := s.acc.set k { s.acc[k] with inc := v } }

/-- `ovf[k] <- b`. -/
def State.setOvf (s : State) (k : Fin 4) (b : Bool) : State := { s with ovf := s.ovf.set k b }

/-- All four fields of `env[e]`. -/
def State.setEnv (s : State) (e : Fin 3) (v : Envelope) : State := { s with env := s.env.set e v }

/-- `gate <- g`. -/
def State.setGate (s : State) (g : Gate) : State := { s with gate := g }

/-- `note.num <- n; note.vel <- v`. -/
def State.setNote (s : State) (n : Note) : State := { s with note := n }

/-- `mix <- m`. -/
def State.setMix (s : State) (m : Word) : State := { s with mix := m }

/-- `pwm <- v; emit(v)`: the output register and the trace are written together (R153). -/
def State.emit (s : State) (v : Byte) : State := { s with pwm := v, out := s.out ++ [v] }

/-- One more free value has been drawn. -/
def State.draw (s : State) : State := { s with draws := s.draws + 1 }

/-! ### The phase accumulator -/

/-- `Advance(k)` (R90): the position moves by the increment modulo 2^16 and `ovf[k]` records whether it wrapped. -/
def advance (k : Fin 4) (s : State) : State :=
  let before := s.acc[k].pos
  let after := before + s.acc[k].inc
  (s.setPos k after).setOvf k (wrapped before after)

/-- `modulate(delta)` (R93): the position moves by delta modulo 2^16 and nothing else changes. -/
def modulate (k : Fin 4) (delta : Word) (s : State) : State := s.setPos k (s.acc[k].pos + delta)

/-- `acc[k].inc <- lookup`: a lookup inside its range gives the entry, one outside it gives the next free value (R178). -/
def setIncLookup (k : Fin 4) (lookup : Option Word) (s : State) : State :=
  match lookup with
  | some v => s.setInc k v
  | none => (s.setInc k (Config.any16 s.draws)).draw

/-! ### The envelope -/

/-- The decrement of a decay step: `amp >> dec`, and 0 for a shift count of 16 or more (R110, R119). -/
def decrement (amp : Word) (dec : Byte) : Word := if 16 ≤ dec.toNat then 0 else amp >>> dec.toNat

/-- The amplitude after a decay step, floored at zero (R110); the subtraction of natural numbers is the floor. -/
def decayed (amp : Word) (dec : Byte) : Word := BitVec.ofNat 16 (amp.toNat - (decrement amp dec).toNat)

/-- The body of `EnvTick` (R110): the counter moves modulo 2^8; when it reaches the divider it is cleared and the amplitude decays. -/
def Envelope.tick (v : Envelope) : Envelope :=
  let cnt := v.cnt + 1
  if dividerReached cnt v.div then { v with cnt := 0, amp := decayed v.amp v.dec } else { v with cnt := cnt }

/-- `EnvTick(e)` (R110). -/
def envTick (e : Fin 3) (s : State) : State := s.setEnv e s.env[e].tick

/-- `EnvReset(e, a, d, v)` (R111): all four fields, the counter to 0. -/
def envReset (e : Fin 3) (a : Word) (d v : Byte) (s : State) : State := s.setEnv e ⟨a, d, v, 0⟩

/-- The decay parameters alone (R114). -/
def setDecay (e : Fin 3) (d v : Byte) (s : State) : State := s.setEnv e { s.env[e] with dec := d, div := v }

/-- `EnvValue(e)` (R112): the full amplitude. -/
def envValue (e : Fin 3) (s : State) : Word := s.env[e].amp

/-- `EnvValue(e)` as the mixer and the output stage consume it: the high byte (R112). -/
def envValueHigh (e : Fin 3) (s : State) : Byte := highByte s.env[e].amp

/-! ### The grain -/

/-- `GrainReset(g)` (R131): position 0, envelope at full scale with its own decay parameters. -/
def grainReset (p : Params) (g : Fin 2) (s : State) : State :=
  let t := s.setPos (grainAcc g) 0
  envReset (grainEnv g) p.grainFullScale t.env[grainEnv g].dec t.env[grainEnv g].div t

/-- `Sample(g)` (R133): waveform value times the envelope's high byte, 0 to 65025. -/
def sample (p : Params) (g : Fin 2) (s : State) : Nat :=
  (p.wave (waveIndex s.acc[grainAcc g].pos)).toNat * (envValueHigh (grainEnv g) s).toNat

/-! ### The output stage -/

/-- `Finalise(m, a)` (R152): centre the mix, multiply by the master's high byte, shift right rounding toward minus infinity,
re-offset modulo 2^8. -/
def finalise (p : Params) (m a : Word) : Byte :=
  let c : Int := ((m.toNat >>> p.outShift : Nat) : Int) - p.outCenter
  let v : Int := (highByte a).toNat
  let s : Int := (c * v) / 2 ^ p.masterShift
  BitVec.ofInt 8 (s + p.outCenter)

/-! ### The seven steps of TICK -/

/-- Step 1 (R146): advance both sync accumulators. -/
def tickSync (s : State) : State := advance 1 (advance 0 s)

/-- One half of step 2: reset grain g if its sync accumulator's advance of this TICK wrapped (R147). -/
def retrigger (p : Params) (g : Fin 2) (s : State) : State := if s.ovf[syncAcc g] then grainReset p g s else s

/-- Step 2 (R147): retrigger both grains. -/
def tickRetrigger (p : Params) (s : State) : State := retrigger p 1 (retrigger p 0 s)

/-- Step 3 (R148): advance both grains' own phases. -/
def tickGrains (s : State) : State := advance 3 (advance 2 s)

/-- Step 4 (R149): the two samples are summed modulo 2^16. -/
def tickMix (p : Params) (s : State) : State := s.setMix (BitVec.ofNat 16 (sample p 0 s + sample p 1 s))

/-- Step 5 (R150): tick both grain envelopes. -/
def tickEnvs (s : State) : State := envTick 2 (envTick 1 s)

/-- Step 6 (R151): tick the master envelope while the gate is CLOSED. -/
def tickMaster (s : State) : State := if s.gate = .closed then envTick 0 s else s

/-- Step 7 (R152, R153): write and emit the output sample. -/
def tickOut (p : Params) (s : State) : State := s.emit (finalise p s.mix s.env[0].amp)

/-- `TICK` (R145): the seven steps in order. -/
def tick (p : Params) (s : State) : State :=
  tickOut p (tickMaster (tickEnvs (tickMix p (tickGrains (tickRetrigger p (tickSync s))))))

/-! ### The voice -/

/-- `NOTE_ON` with velocity above zero (R191). -/
def noteStart (p : Params) (b c : Byte) (s : State) : State :=
  let s1 := (s.setNote ⟨b, c⟩).setGate .opened
  let s2 := envReset 0 (velocityAmp c) p.masterDecay p.masterDivider s1
  setIncLookup 1 (chromaByPitch (keyOffset b p.syncOffset1)) (setIncLookup 0 (chromaByPitch (keyOffset b p.syncOffset0)) s2)

/-- The release of a key (R192, R193): the gate closes when the key is the held one, and nothing changes otherwise. -/
def noteRelease (b : Byte) (s : State) : State := if keyHeld b s then s.setGate .closed else s

/-- `PITCHBEND` (R194): the same offset to both sync positions. -/
def pitchBend (p : Params) (a : Word) (s : State) : State := modulate 1 (bendDelta p a) (modulate 0 (bendDelta p a) s)

/-! ### The next event -/

/-- The next event word of the run and the state with it taken off the sequence; none when no event is waiting (R11). -/
def nextEvent (s : State) : Option (EventWord × State) :=
  match s.events with
  | [] => none
  | w :: rest => some (w, { s with events := rest })

/-- The sequence with one event word put before all others, so that it is the next one. -/
def pushEvent (w : EventWord) (s : State) : State := { s with events := w :: s.events }

end Sys2Proof.Machine
end

