-- ==== Sys2Proof/Machine/Control.lean ====
section
/-! DEFINITION. The meanings of `NOP` and `TICK` (43_mixer_tick.md). -/

namespace Sys2Proof.Machine

/-- `NOP` (R157): does nothing. -/
def execNop (s : State) : Host.Outcome State Fault Refusal := .next s

/-- `TICK` (R145): one sample period's work. -/
def execTick (s : State) : Host.Outcome State Fault Refusal := .next (tick params s)

end Sys2Proof.Machine
end

