-- ==== Sys2Proof/Machine/EnvelopeCommands.lean ====
section
/-! DEFINITION. The meanings of the three commands that reach an envelope directly (41_envelope.md). -/

namespace Sys2Proof.Machine

/-- `ENV_RESET e, amp, dec, div` (R113): `EnvReset(sel, a, b, c)`. -/
def execEnvReset (sel : Byte) (a : Word) (b c : Byte) (s : State) : Host.Outcome State Fault Refusal :=
  .next (onEnv sel (fun e => envReset e a b c) s)

/-- `ENV_SETDECAY e, dec, div` (R114): the decay parameters and nothing else. -/
def execEnvSetdecay (sel : Byte) (b c : Byte) (s : State) : Host.Outcome State Fault Refusal :=
  .next (onEnv sel (fun e => setDecay e b c) s)

/-- `ENV_TICK e` (R115): one `EnvTick(e)`, whatever the gate is. -/
def execEnvTick (sel : Byte) (s : State) : Host.Outcome State Fault Refusal :=
  .next (onEnv sel envTick s)

end Sys2Proof.Machine
end

