-- ==== Sys2Proof/Machine/Grain.lean ====
section
/-! DEFINITION. The meaning of the one command that reaches a grain as a whole (42_grain.md). -/

namespace Sys2Proof.Machine

/-- `GR_RESET g` (R135): one `GrainReset(g)` outside a tick. -/
def execGrReset (sel : Byte) (s : State) : Host.Outcome State Fault Refusal :=
  .next (onGrain sel (grainReset params) s)

end Sys2Proof.Machine
end

