-- ==== Sys2Proof/Machine/PhaseAccumulator.lean ====
section
/-! DEFINITION. The meanings of the three commands that reach a phase accumulator directly (40_phase_accumulator.md). -/

namespace Sys2Proof.Machine

/-- `PA_SETINC k, v` (R92): `acc[k].inc <- a`. -/
def execPaSetinc (sel : Byte) (a : Word) (s : State) : Host.Outcome State Fault Refusal :=
  .next (onAcc sel (fun k t => t.setInc k a) s)

/-- `PA_MODULATE k, delta` (R93): `acc[k].pos <- (acc[k].pos + a) mod 2^16`, no flag. -/
def execPaModulate (sel : Byte) (a : Word) (s : State) : Host.Outcome State Fault Refusal :=
  .next (onAcc sel (fun k => modulate k a) s)

/-- `PA_ADVANCE k` (R94): one `Advance(k)`; no grain is reset by it. -/
def execPaAdvance (sel : Byte) (s : State) : Host.Outcome State Fault Refusal :=
  .next (onAcc sel advance s)

end Sys2Proof.Machine
end

