-- ==== Sys2Proof/Machine/TableCommands.lean ====
section
/-! DEFINITION. The meanings of the four table-driven increment commands (44_lookup_tables.md). -/

namespace Sys2Proof.Machine

/-- `PA_SETINC_CHROMA k, p` (R179): `acc[k].inc <- ChromaByPitch(b)`. -/
def execPaSetincChroma (sel : Byte) (b : Byte) (s : State) : Host.Outcome State Fault Refusal :=
  .next (onAcc sel (fun k => setIncLookup k (chromaByPitch b.toNat)) s)

/-- `PA_SETINC_ANTILOG k, c` (R180): `acc[k].inc <- AntilogByControl(a)`. -/
def execPaSetincAntilog (sel : Byte) (a : Word) (s : State) : Host.Outcome State Fault Refusal :=
  .next (onAcc sel (fun k => setIncLookup k (antilogByControl params a.toNat)) s)

/-- `PA_SETINC_CHROMAK k, c` (R181): `acc[k].inc <- ChromaByControl(a)`. -/
def execPaSetincChromak (sel : Byte) (a : Word) (s : State) : Host.Outcome State Fault Refusal :=
  .next (onAcc sel (fun k => setIncLookup k (chromaByControl a.toNat)) s)

/-- `PA_SETINC_PENTA k, c` (R182): `acc[k].inc <- PentaByControl(a)`. -/
def execPaSetincPenta (sel : Byte) (a : Word) (s : State) : Host.Outcome State Fault Refusal :=
  .next (onAcc sel (fun k => setIncLookup k (pentaByControl params a.toNat)) s)

end Sys2Proof.Machine
end

