-- ==== Sys2Proof/Machine/Voice.lean ====
section
/-! DEFINITION. The meanings of the three voice commands (45_voice_note.md). -/

namespace Sys2Proof.Machine

/-- `NOTE_ON n, v`: a start when the velocity is above zero (R191), a release of the key when it is zero (R192). -/
def execNoteOn (b c : Byte) (s : State) : Host.Outcome State Fault Refusal :=
  .next (if 0 < c.toNat then noteStart params b c s else noteRelease b s)

/-- `NOTE_OFF n` (R193): the release of a key. -/
def execNoteOff (b : Byte) (s : State) : Host.Outcome State Fault Refusal := .next (noteRelease b s)

/-- `PITCHBEND value` (R194): a phase offset to both sync accumulators. -/
def execPitchbend (a : Word) (s : State) : Host.Outcome State Fault Refusal := .next (pitchBend params a s)

end Sys2Proof.Machine
end

