-- ==== Sys2Proof/Machine/Dispatch.lean ====
section
/-! DEFINITION. The meaning of each instruction: one arm per row of the opcode map (30_encoding.md R73). -/

namespace Sys2Proof.Machine

def exec (i : Instr) (s : State) : Host.Outcome State Fault Refusal :=
  match i with
  -- control (43_mixer_tick.md)
  | .nop => Sys2Proof.Machine.execNop s
  | .tick => Sys2Proof.Machine.execTick s
  -- phase accumulator (40_phase_accumulator.md)
  | .paSetinc sel a => Sys2Proof.Machine.execPaSetinc sel a s
  | .paModulate sel a => Sys2Proof.Machine.execPaModulate sel a s
  | .paAdvance sel => Sys2Proof.Machine.execPaAdvance sel s
  -- lookup tables (44_lookup_tables.md)
  | .paSetincChroma sel b => Sys2Proof.Machine.execPaSetincChroma sel b s
  | .paSetincAntilog sel a => Sys2Proof.Machine.execPaSetincAntilog sel a s
  | .paSetincChromak sel a => Sys2Proof.Machine.execPaSetincChromak sel a s
  | .paSetincPenta sel a => Sys2Proof.Machine.execPaSetincPenta sel a s
  -- envelope (41_envelope.md)
  | .envReset sel a b c => Sys2Proof.Machine.execEnvReset sel a b c s
  | .envSetdecay sel b c => Sys2Proof.Machine.execEnvSetdecay sel b c s
  | .envTick sel => Sys2Proof.Machine.execEnvTick sel s
  -- grain (42_grain.md)
  | .grReset sel => Sys2Proof.Machine.execGrReset sel s
  -- voice (45_voice_note.md)
  | .noteOn b c => Sys2Proof.Machine.execNoteOn b c s
  | .noteOff b => Sys2Proof.Machine.execNoteOff b s
  | .pitchbend a => Sys2Proof.Machine.execPitchbend a s

end Sys2Proof.Machine
end

