-- ==== Sys2Proof/Machine/Step.lean ====
section
/-! DEFINITION. One step (00_scope.md R11): the next event of the sequence is taken, decoded and executed as one atomic event
(20_memory.md R58). With no event waiting the block holds its state (60_exceptions.md R222; DEDUCED, log 2). -/

namespace Sys2Proof.Machine

/-- One step of the block. -/
def step (s : State) : Host.Outcome State Fault Refusal :=
  match nextEvent s with
  | some (w, t) => exec (decodeWord w) t
  | none => .next s

/-- The state with a row's word (numbered as spec/opcode_table.json numbers it) put where the next step takes its event. -/
def State.withFetchWord (s : State) (nbits w : Nat) : State := pushEvent (tableWord nbits w) s

end Sys2Proof.Machine
end

