-- ==== Sys2Proof/Machine/Assembler.lean ====
section
/-! DEFINITION. The pseudo-instructions (30_encoding.md R80) and the assembler syntax (R79): one event per line,
`MNEMONIC operand, operand, ...`. What R79 does not fix about the text (spacing, letter case, operands that do not fit) is a
DESIGN CHOICE, log 12; how the operands of a pseudo-instruction are spelled is another, log 16. -/

namespace Sys2Proof

/-- The pseudo-instructions of R80. -/
inductive Pseudo where
  | syncSetinc (i : Fin 2) (v : Word)
  | grSetinc (g : Fin 2) (v : Word)
  | grAdvance (g : Fin 2)
  | grTickenv (g : Fin 2)
  | grSetdecay (g : Fin 2) (d v : Byte)
  | syncModulate (i : Fin 2) (delta : Word)
deriving DecidableEq, Repr

/-- The one event each pseudo-instruction stands for (R80). -/
def Pseudo.expand : Pseudo → Instr
  | .syncSetinc i v => .paSetinc (BitVec.ofNat 8 i.val) v
  | .grSetinc g v => .paSetinc (BitVec.ofNat 8 (2 + g.val)) v
  | .grAdvance g => .paAdvance (BitVec.ofNat 8 (2 + g.val))
  | .grTickenv g => .envTick (BitVec.ofNat 8 (1 + g.val))
  | .grSetdecay g d v => .envSetdecay (BitVec.ofNat 8 (1 + g.val)) d v
  | .syncModulate i delta => .paModulate (BitVec.ofNat 8 i.val) delta

namespace Asm

/-- The value of one hexadecimal digit. -/
def digit (c : Char) : Option Nat :=
  if '0' ≤ c ∧ c ≤ '9' then some (c.toNat - '0'.toNat)
  else if 'a' ≤ c ∧ c ≤ 'f' then some (c.toNat - 'a'.toNat + 10)
  else if 'A' ≤ c ∧ c ≤ 'F' then some (c.toNat - 'A'.toNat + 10)
  else none

/-- The number a run of digits spells in a base, most significant first. -/
def digits (base : Nat) : List Char → Nat → Option Nat
  | [], acc => some acc
  | c :: cs, acc =>
    match digit c with
    | some d => if d < base then digits base cs (acc * base + d) else none
    | none => none

/-- A number: decimal, or hexadecimal with `0x` (R79). -/
def number : List Char → Option Nat
  | [] => none
  | '0' :: 'x' :: c :: cs => digits 16 (c :: cs) 0
  | cs => digits 10 cs 0

/-- A number that fits a field of `w` bits. -/
def field (w : Nat) (cs : List Char) : Option (BitVec w) :=
  (number cs).bind fun n => if n < 2 ^ w then some (BitVec.ofNat w n) else none

/-- The delta of `PA_MODULATE`: a negative number stands for its value modulo 65536 (R79). -/
def delta : List Char → Option Word
  | '-' :: cs => (number cs).map fun n => BitVec.ofInt 16 (-(n : Int))
  | cs => field 16 cs

/-- A selector by one of its names (R74) or as a number (R79). -/
def selector (names : List (String × Byte)) (cs : List Char) : Option Byte :=
  match names.lookup (String.ofList cs) with
  | some v => some v
  | none => field 8 cs

/-- The accumulator selectors (R74). -/
def accSel : List Char → Option Byte := selector [("SYNC0", 0), ("SYNC1", 1), ("GRAIN0", 2), ("GRAIN1", 3)]

/-- The envelope selectors (R74). -/
def envSel : List Char → Option Byte := selector [("MASTER", 0), ("GENV0", 1), ("GENV1", 2)]

/-- The grain selectors (R74). -/
def grainSel : List Char → Option Byte := selector [("G0", 0), ("G1", 1)]

/-- The index 0 or 1 of a pseudo-instruction (R80). That it may also be written by the name of the selector it stands for, `SYNC0` or
`SYNC1` for i and `G0` or `G1` for g, is a DESIGN CHOICE (log 16). -/
def half (sel : List Char → Option Byte) (cs : List Char) : Option (Fin 2) :=
  (sel cs).bind fun v => if h : v.toNat < 2 then some ⟨v.toNat, h⟩ else none

/-- The event of one mnemonic with its operands in the order of R73 (R79), or of one pseudo-instruction (R80). How the operands of a
pseudo-instruction are spelled, a negative delta of `SYNC_MODULATE` among them, is a DESIGN CHOICE (log 16). -/
def event (mnemonic : String) (operands : List (List Char)) : Option Instr :=
  match mnemonic, operands with
  | "NOP", [] => some .nop
  | "TICK", [] => some .tick
  | "PA_SETINC", [k, v] => do return .paSetinc (← accSel k) (← field 16 v)
  | "PA_MODULATE", [k, d] => do return .paModulate (← accSel k) (← delta d)
  | "PA_ADVANCE", [k] => do return .paAdvance (← accSel k)
  | "PA_SETINC_CHROMA", [k, p] => do return .paSetincChroma (← accSel k) (← field 8 p)
  | "PA_SETINC_ANTILOG", [k, c] => do return .paSetincAntilog (← accSel k) (← field 16 c)
  | "PA_SETINC_CHROMAK", [k, c] => do return .paSetincChromak (← accSel k) (← field 16 c)
  | "PA_SETINC_PENTA", [k, c] => do return .paSetincPenta (← accSel k) (← field 16 c)
  | "ENV_RESET", [e, a, d, v] => do return .envReset (← envSel e) (← field 16 a) (← field 8 d) (← field 8 v)
  | "ENV_SETDECAY", [e, d, v] => do return .envSetdecay (← envSel e) (← field 8 d) (← field 8 v)
  | "ENV_TICK", [e] => do return .envTick (← envSel e)
  | "GR_RESET", [g] => do return .grReset (← grainSel g)
  | "NOTE_ON", [n, v] => do return .noteOn (← field 8 n) (← field 8 v)
  | "NOTE_OFF", [n] => do return .noteOff (← field 8 n)
  | "PITCHBEND", [v] => do return .pitchbend (← field 16 v)
  | "SYNC_SETINC", [i, v] => do return (Pseudo.syncSetinc (← half accSel i) (← field 16 v)).expand
  | "GR_SETINC", [g, v] => do return (Pseudo.grSetinc (← half grainSel g) (← field 16 v)).expand
  | "GR_ADVANCE", [g] => do return (Pseudo.grAdvance (← half grainSel g)).expand
  | "GR_TICKENV", [g] => do return (Pseudo.grTickenv (← half grainSel g)).expand
  | "GR_SETDECAY", [g, d, v] => do return (Pseudo.grSetdecay (← half grainSel g) (← field 8 d) (← field 8 v)).expand
  | "SYNC_MODULATE", [i, d] => do return (Pseudo.syncModulate (← half accSel i) (← delta d)).expand
  | _, _ => none

/-- A blank of a line. -/
def isBlank (c : Char) : Bool := c == ' ' || c == '\t' || c == '\r'

/-- A text without the blanks at its two ends. -/
def trim (cs : List Char) : List Char := ((cs.dropWhile isBlank).reverse.dropWhile isBlank).reverse

/-- The pieces of a text between the separators. -/
def pieces (sep : Char) : List Char → List (List Char)
  | [] => [[]]
  | c :: cs =>
    match pieces sep cs with
    | [] => [[c]]
    | p :: ps => if c = sep then [] :: p :: ps else (c :: p) :: ps

/-- The operands of a line: separated by commas, none where nothing stands. -/
def operandsOf (cs : List Char) : List (List Char) := if trim cs = [] then [] else (pieces ',' cs).map trim

/-- The events of one line: `;` starts a comment, `TICK * n` abbreviates n TICK lines, an empty line has no event (R79). -/
def line (cs : List Char) : Option (List Instr) :=
  let text := trim (cs.takeWhile (· != ';'))
  let mnemonic := text.takeWhile fun c => !isBlank c && c != '*'
  match mnemonic, trim (text.drop mnemonic.length) with
  | [], [] => some []
  | ['T', 'I', 'C', 'K'], '*' :: n => (number (trim n)).map fun k => List.replicate k .tick
  | m, rest => (event (String.ofList m) (operandsOf rest)).map fun i => [i]

end Asm

/-- The event words of an assembler text, line by line (R79). -/
def assemble (text : String) : Option (List EventWord) :=
  ((Asm.pieces '\n' text.toList).mapM Asm.line).map fun ls => ls.flatten.map encode

end Sys2Proof
end

