-- ==== Sys2Proof/Machine/Ports.lean ====
section
/-! DEFINITION. The pins at the block's boundary: how the two request sources become one event sequence (20_memory.md R59,
60_exceptions.md R213, R214), the reset pin (70_reset_and_hazards.md R230) and the output pins (10_state.md R30). -/

namespace Sys2Proof.Machine

/-- The event word a request on the `tick` pin is turned into (R59). -/
def tickWord : EventWord := 0x010000000000

/-- The requests present at one moment the block can take an event: the `tick` pin, and the command port (`cmd_valid` with
`cmd_word`) where a command is presented (R59, R213). -/
structure Request where
  tick : Bool
  cmd : Option EventWord
deriving DecidableEq, Repr

/-- The event words of one moment's requests: TICK first, the command after it (R59, R214). -/
def Request.words (r : Request) : List EventWord := (if r.tick then [tickWord] else []) ++ r.cmd.toList

/-- The one sequence of event words that a sequence of requests becomes: in arrival order, none dropped, none duplicated (R59). -/
def serialise (rs : List Request) : List EventWord := rs.flatMap Request.words

/-- The requests join the event sequence behind the events already accepted (R59). -/
def State.request (s : State) (r : Request) : State := { s with events := s.events ++ r.words }

/-- The `rst` pin (R230): the reset state. It starts another run, so no event of the old one is left; the counter of free values goes
on, since two draws need not agree (log 10). -/
def State.rst (s : State) : State := { State.reset with draws := s.draws }

/-- The pins `pwm_out[7:0]` show `pwm` at all times (R30). -/
def pwmOut (s : State) : Byte := s.pwm

/-- How often the pin `pwm_valid` pulsed between two states of a run: once for each sample written (R30, R153). -/
def pwmValidPulses (before after : State) : Nat := after.out.length - before.out.length

end Sys2Proof.Machine
end

