-- ==== Sys2Proof/Machine/ReadPort.lean ====
section
/-! DEFINITION. The read port (20_memory.md R50 to R52, R65; 10_state.md R32, R33): the one address space, 10-bit word addresses,
16-bit data. A read is a function of the state between two events and changes nothing (R52). -/

namespace Sys2Proof.Machine

/-- A `CFG` word: `dec` in 15:8, `div` in 7:0 (R32). -/
def cfgWord (v : Envelope) : Word := v.dec ++ v.div

/-- The register map (R32), addresses 0x000 to 0x016; every other address below 0x100 is reserved and reads 0. -/
def registerAt (p : Params) (s : State) (addr : Nat) : Word :=
  match addr with
  | 0x000 => s.acc[0].pos
  | 0x001 => s.acc[0].inc
  | 0x002 => s.acc[1].pos
  | 0x003 => s.acc[1].inc
  | 0x004 => s.acc[2].pos
  | 0x005 => s.acc[2].inc
  | 0x006 => s.acc[3].pos
  | 0x007 => s.acc[3].inc
  | 0x008 => s.env[0].amp
  | 0x009 => cfgWord s.env[0]
  | 0x00A => s.env[0].cnt.setWidth 16
  | 0x00B => s.env[1].amp
  | 0x00C => cfgWord s.env[1]
  | 0x00D => s.env[1].cnt.setWidth 16
  | 0x00E => s.env[2].amp
  | 0x00F => cfgWord s.env[2]
  | 0x010 => s.env[2].cnt.setWidth 16
  | 0x011 => s.note.num ++ s.note.vel
  | 0x012 => statusWord s
  | 0x013 => s.mix
  | 0x014 => s.pwm.setWidth 16
  | 0x015 => BitVec.ofNat 16 (sample p 0 s)
  | 0x016 => BitVec.ofNat 16 (sample p 1 s)
  | _ => 0

/-- `MemRead(addr, 1)` (R52): the content the address map of R51 gives. -/
def readPortWith (p : Params) (s : State) (addr : BitVec 10) : Word :=
  let a := addr.toNat
  if a < 0x100 then registerAt p s a
  else if h : 0x100 ≤ a ∧ a < 0x180 then chroma ⟨a - 0x100, by omega⟩
  else if h : 0x180 ≤ a ∧ a < 0x1C0 then p.antilog ⟨a - 0x180, by omega⟩
  else if h : 0x1C0 ≤ a ∧ a < 0x1F6 then p.penta ⟨a - 0x1C0, by omega⟩
  else if h : 0x200 ≤ a then (p.wave ⟨a - 0x200, by have := addr.isLt; omega⟩).setWidth 16
  else 0

/-- The read port of this hardware: `rd_data` for `rd_addr` (R52). -/
def readPort (s : State) (addr : BitVec 10) : Word := readPortWith params s addr

end Sys2Proof.Machine
end

