-- ==== Sys2Proof/Safety.lean ====
section
/-! DEFINITION. What counts as a safe run (10_state.md R37; 41_envelope.md R121; 43_mixer_tick.md R154, R155): the control layer's
contract on the values it loads, the ranges that follow from it, and the run predicates the statements use. -/

namespace Sys2Proof.Machine

/-- The contract on what an event loads (R37): an `ENV_RESET` amplitude is at most 0x7FFF, a `NOTE_ON` velocity at most 127. -/
def KeepsContract : Instr → Prop
  | .nop => True
  | .tick => True
  | .paSetinc _ _ => True
  | .paModulate _ _ => True
  | .paAdvance _ => True
  | .paSetincChroma _ _ => True
  | .paSetincAntilog _ _ => True
  | .paSetincChromak _ _ => True
  | .paSetincPenta _ _ => True
  | .envReset _ a _ _ => a.toNat ≤ 0x7FFF
  | .envSetdecay _ _ _ => True
  | .envTick _ => True
  | .grReset _ => True
  | .noteOn _ c => c.toNat ≤ 127
  | .noteOff _ => True
  | .pitchbend _ => True

/-- Every amplitude is at most 0x7FFF (R37). -/
def AmplitudesInRange (s : State) : Prop := ∀ e : Fin 3, s.env[e].amp.toNat ≤ 0x7FFF

/-- An output sample in the range of R155: 1 to 252. -/
def SampleInRange (v : Byte) : Prop := 1 ≤ v.toNat ∧ v.toNat ≤ 252

/-- The ranges of R37 in a state whose events to come keep the contract. -/
structure InContract (s : State) : Prop where
  /-- The events still to be applied keep the contract. -/
  events : ∀ w ∈ s.events, KeepsContract (decodeWord w)
  /-- `env[e].amp <= 0x7FFF` for all e. -/
  amps : AmplitudesInRange s
  /-- `mix <= 64770`. -/
  mix : s.mix.toNat ≤ 64770
  /-- `pwm` is in 1..252. -/
  pwm : SampleInRange s.pwm
  /-- So is every sample of the trace. -/
  out : ∀ v ∈ s.out, SampleInRange v

/-- No envelope counter holds 255: the value that only a counter addition could wrap from (R121). -/
def CountersBelowWrap (s : State) : Prop := ∀ e : Fin 3, s.env[e].cnt.toNat ≤ 254

/-- The output register holds the last sample of the trace, and its reset value while there is none (R30, R36). -/
def OutputShowsTrace (s : State) : Prop := s.pwm = s.out.getLast?.getD params.pwmReset

/-- A run of n steps reaches a next state: no fault and no refusal (R210). -/
def RunsTo (n : Nat) (s t : State) : Prop := Sys2Proof.core.run n s = .next t

/-- How many of n successive advances of accumulator k wrap (R96), the advances being `PA_ADVANCE k` events. -/
def wrapsIn (k : Fin 4) : Nat → State → Nat
  | 0, _ => 0
  | n + 1, s =>
    match exec (.paAdvance (BitVec.ofNat 8 k.val)) s with
    | .next t => t.ovf[k].toNat + wrapsIn k n t
    | .fault _ => 0
    | .refused _ => 0

/-! ### Who writes what (the column "written by" of R20) -/

/-- The events that may write `acc[k].pos` (R20, R22). -/
def MayWritePos (k : Fin 4) : Instr → Prop
  | .nop => False
  | .tick => True
  | .paSetinc _ _ => False
  | .paModulate sel _ => sel.toNat = k.val
  | .paAdvance sel => sel.toNat = k.val
  | .paSetincChroma _ _ => False
  | .paSetincAntilog _ _ => False
  | .paSetincChromak _ _ => False
  | .paSetincPenta _ _ => False
  | .envReset _ _ _ _ => False
  | .envSetdecay _ _ _ => False
  | .envTick _ => False
  | .grReset sel => sel.toNat + 2 = k.val
  | .noteOn _ _ => False
  | .noteOff _ => False
  | .pitchbend _ => k.val < 2

/-- The events that may write `acc[k].inc` (R20, R22). -/
def MayWriteInc (k : Fin 4) : Instr → Prop
  | .nop => False
  | .tick => False
  | .paSetinc sel _ => sel.toNat = k.val
  | .paModulate _ _ => False
  | .paAdvance _ => False
  | .paSetincChroma sel _ => sel.toNat = k.val
  | .paSetincAntilog sel _ => sel.toNat = k.val
  | .paSetincChromak sel _ => sel.toNat = k.val
  | .paSetincPenta sel _ => sel.toNat = k.val
  | .envReset _ _ _ _ => False
  | .envSetdecay _ _ _ => False
  | .envTick _ => False
  | .grReset _ => False
  | .noteOn _ c => 0 < c.toNat ∧ k.val < 2
  | .noteOff _ => False
  | .pitchbend _ => False

/-- The events that may write `ovf[k]` (R20, R25). -/
def MayWriteOvf (k : Fin 4) : Instr → Prop
  | .nop => False
  | .tick => True
  | .paSetinc _ _ => False
  | .paModulate _ _ => False
  | .paAdvance sel => sel.toNat = k.val
  | .paSetincChroma _ _ => False
  | .paSetincAntilog _ _ => False
  | .paSetincChromak _ _ => False
  | .paSetincPenta _ _ => False
  | .envReset _ _ _ _ => False
  | .envSetdecay _ _ _ => False
  | .envTick _ => False
  | .grReset _ => False
  | .noteOn _ _ => False
  | .noteOff _ => False
  | .pitchbend _ => False

/-- The events that may write `env[e].amp` and `env[e].cnt` (R20, R27). -/
def MayWriteLevel (e : Fin 3) : Instr → Prop
  | .nop => False
  | .tick => True
  | .paSetinc _ _ => False
  | .paModulate _ _ => False
  | .paAdvance _ => False
  | .paSetincChroma _ _ => False
  | .paSetincAntilog _ _ => False
  | .paSetincChromak _ _ => False
  | .paSetincPenta _ _ => False
  | .envReset sel _ _ _ => sel.toNat = e.val
  | .envSetdecay _ _ _ => False
  | .envTick sel => sel.toNat = e.val
  | .grReset sel => sel.toNat + 1 = e.val
  | .noteOn _ c => 0 < c.toNat ∧ e.val = 0
  | .noteOff _ => False
  | .pitchbend _ => False

/-- The events that may write `env[e].dec` and `env[e].div` (R20, R27). -/
def MayWriteDecay (e : Fin 3) : Instr → Prop
  | .nop => False
  | .tick => False
  | .paSetinc _ _ => False
  | .paModulate _ _ => False
  | .paAdvance _ => False
  | .paSetincChroma _ _ => False
  | .paSetincAntilog _ _ => False
  | .paSetincChromak _ _ => False
  | .paSetincPenta _ _ => False
  | .envReset sel _ _ _ => sel.toNat = e.val
  | .envSetdecay sel _ _ => sel.toNat = e.val
  | .envTick _ => False
  | .grReset _ => False
  | .noteOn _ c => 0 < c.toNat ∧ e.val = 0
  | .noteOff _ => False
  | .pitchbend _ => False

/-- The fields some event reads as an input: positions, increments, envelopes, gate, key number, and the model's own two. Left out
are the overflow flags, the velocity, `mix`, `pwm` and the trace, which R20 gives no reader but the same event, the pins or the
read port (R25, R28, R29, R30). -/
structure SameInputs (s t : State) : Prop where
  acc : s.acc = t.acc
  env : s.env = t.env
  gate : s.gate = t.gate
  num : s.note.num = t.note.num
  events : s.events = t.events
  draws : s.draws = t.draws

/-- The state of grain g and of the sync accumulator that retriggers it (R130), with the counter of free values. -/
structure SameGrain (g : Fin 2) (s t : State) : Prop where
  sync : s.acc[syncAcc g] = t.acc[syncAcc g]
  acc : s.acc[grainAcc g] = t.acc[grainAcc g]
  env : s.env[grainEnv g] = t.env[grainEnv g]
  draws : s.draws = t.draws

end Sys2Proof.Machine
end

