-- ==== Sys2Proof/Certificates/Slice0/Obligations.lean ====
section
/-! DEFINITION. The statements about the model, each from the numbered rules of spec/ its docstring names. A selector is written
`BitVec.ofNat 8 k.val` for a legal k, and as any larger byte for a reserved one. A next state is written out field by field as an
update of the state before, so each result is also the event's frame: what is not named is unchanged. -/

open Sys2Proof Sys2Proof.Machine

/-! ### Encoding -/

/-- R70, R71, R73, R77: the bytes of every well-formed instruction decode to it, whatever follows them. -/
def Obligations.EncodedInstructionDecodesBack : Prop :=
  ∀ (i : Instr) (rest : List Byte), i.wellFormed = true →
    decodeWord (encode i) = i ∧ decode (encodeBytes i ++ rest) = .ok (i, rest)

/-- R70, R71, R73: the number each instruction's word is, `op` in 47:40, `sel` in 39:32, `a` in 31:16, `b` in 15:8, `c` in 7:0, and 0
in the fields its format does not use. -/
def Obligations.EncodingPlacesTheFields : Prop :=
  (encode .nop).toNat = 0x00 * 2 ^ 40 ∧
  (encode .tick).toNat = 0x01 * 2 ^ 40 ∧
  (∀ sel a, (encode (.paSetinc sel a)).toNat = 0x10 * 2 ^ 40 + sel.toNat * 2 ^ 32 + a.toNat * 2 ^ 16) ∧
  (∀ sel a, (encode (.paModulate sel a)).toNat = 0x11 * 2 ^ 40 + sel.toNat * 2 ^ 32 + a.toNat * 2 ^ 16) ∧
  (∀ sel, (encode (.paAdvance sel)).toNat = 0x12 * 2 ^ 40 + sel.toNat * 2 ^ 32) ∧
  (∀ sel b, (encode (.paSetincChroma sel b)).toNat = 0x18 * 2 ^ 40 + sel.toNat * 2 ^ 32 + b.toNat * 2 ^ 8) ∧
  (∀ sel a, (encode (.paSetincAntilog sel a)).toNat = 0x19 * 2 ^ 40 + sel.toNat * 2 ^ 32 + a.toNat * 2 ^ 16) ∧
  (∀ sel a, (encode (.paSetincChromak sel a)).toNat = 0x1A * 2 ^ 40 + sel.toNat * 2 ^ 32 + a.toNat * 2 ^ 16) ∧
  (∀ sel a, (encode (.paSetincPenta sel a)).toNat = 0x1B * 2 ^ 40 + sel.toNat * 2 ^ 32 + a.toNat * 2 ^ 16) ∧
  (∀ sel a b c, (encode (.envReset sel a b c)).toNat =
    0x20 * 2 ^ 40 + sel.toNat * 2 ^ 32 + a.toNat * 2 ^ 16 + b.toNat * 2 ^ 8 + c.toNat) ∧
  (∀ sel b c, (encode (.envSetdecay sel b c)).toNat = 0x21 * 2 ^ 40 + sel.toNat * 2 ^ 32 + b.toNat * 2 ^ 8 + c.toNat) ∧
  (∀ sel, (encode (.envTick sel)).toNat = 0x22 * 2 ^ 40 + sel.toNat * 2 ^ 32) ∧
  (∀ sel, (encode (.grReset sel)).toNat = 0x30 * 2 ^ 40 + sel.toNat * 2 ^ 32) ∧
  (∀ b c, (encode (.noteOn b c)).toNat = 0x40 * 2 ^ 40 + b.toNat * 2 ^ 8 + c.toNat) ∧
  (∀ b, (encode (.noteOff b)).toNat = 0x41 * 2 ^ 40 + b.toNat * 2 ^ 8) ∧
  (∀ a, (encode (.pitchbend a)).toNat = 0x42 * 2 ^ 40 + a.toNat * 2 ^ 16)

/-- 30_encoding.md R79 and 95_test_vectors.md 2.3, 2.5, 2.6, 2.7: words written out in the spec decode to the events they stand for (one
of them, that of `NOTE_ON`, with junk in the unused fields), and bytes in the order of R54. -/
def Obligations.WordsOfTheSpecDecode : Prop :=
  decodeWord 0x010000000000 = .tick ∧
  decodeWord 0x100003E80000 = .paSetinc 0 1000 ∧
  decodeWord 0x190200400000 = .paSetincAntilog 2 64 ∧
  decodeWord 0x20007F000104 = .envReset 0 32512 1 4 ∧
  decodeWord 0x21020000FF07 = .envSetdecay 2 255 7 ∧
  decodeWord 0x300100000000 = .grReset 1 ∧
  decodeWord 0x4005FFFF457F = .noteOn 69 127 ∧
  decodeWord 0x42003FFF0000 = .pitchbend 16383 ∧
  decode [0x10, 0x00, 0x03, 0xE8, 0x00, 0x00, 0x22] = .ok (.paSetinc 0 1000, [0x22])

/-- R75: the reserved opcodes are exactly the values outside R73, and a word with one changes no state. -/
def Obligations.ReservedOpcodeActsAsNop : Prop :=
  ∀ f : Fields,
    let n := f.op.toNat
    let reserved := (0x02 ≤ n ∧ n ≤ 0x0F) ∨ (0x13 ≤ n ∧ n ≤ 0x17) ∨ (0x1C ≤ n ∧ n ≤ 0x1F) ∨ (0x23 ≤ n ∧ n ≤ 0x2F) ∨
      (0x31 ≤ n ∧ n ≤ 0x3F) ∨ 0x43 ≤ n
    (reserved ↔ f.op ∉ usedOpcodes) ∧
    (reserved → decodeWord (wordOf f) = .nop ∧ ∀ s : State, exec (decodeWord (wordOf f)) s = .next s)

/-- R76: a used opcode with a reserved selector, all eight bits compared, changes no state. -/
def Obligations.ReservedSelectorActsAsNop : Prop :=
  ∀ f : Fields,
    ((f.op ∈ ([0x10, 0x11, 0x12, 0x18, 0x19, 0x1A, 0x1B] : List Byte) ∧ 4 ≤ f.sel.toNat) ∨
      (f.op ∈ ([0x20, 0x21, 0x22] : List Byte) ∧ 3 ≤ f.sel.toNat) ∨ (f.op = 0x30 ∧ 2 ≤ f.sel.toNat)) →
    decodeWord (wordOf f) = .nop ∧ ∀ s : State, exec (decodeWord (wordOf f)) s = .next s

/-- R77: the fields a format does not use are ignored, and bits 15:14 of a bend value; an encoding holds 0 there. -/
def Obligations.UnusedFieldsAreIgnored : Prop :=
  (∀ op sel a b c, op ∈ ([0x00, 0x01] : List Byte) → decodeWord (wordOf ⟨op, sel, a, b, c⟩) = decodeWord (wordOf ⟨op, 0, 0, 0, 0⟩)) ∧
  (∀ op sel a b c, op ∈ ([0x12, 0x22, 0x30] : List Byte) →
    decodeWord (wordOf ⟨op, sel, a, b, c⟩) = decodeWord (wordOf ⟨op, sel, 0, 0, 0⟩)) ∧
  (∀ op sel a b c, op ∈ ([0x10, 0x11, 0x19, 0x1A, 0x1B] : List Byte) →
    decodeWord (wordOf ⟨op, sel, a, b, c⟩) = decodeWord (wordOf ⟨op, sel, a, 0, 0⟩)) ∧
  (∀ sel a b c, decodeWord (wordOf ⟨0x18, sel, a, b, c⟩) = decodeWord (wordOf ⟨0x18, sel, 0, b, 0⟩)) ∧
  (∀ sel a b c, decodeWord (wordOf ⟨0x21, sel, a, b, c⟩) = decodeWord (wordOf ⟨0x21, sel, 0, b, c⟩)) ∧
  (∀ sel a b c, decodeWord (wordOf ⟨0x40, sel, a, b, c⟩) = decodeWord (wordOf ⟨0x40, 0, 0, b, c⟩)) ∧
  (∀ sel a b c, decodeWord (wordOf ⟨0x41, sel, a, b, c⟩) = decodeWord (wordOf ⟨0x41, 0, 0, b, 0⟩)) ∧
  (∀ sel a b c, decodeWord (wordOf ⟨0x42, sel, a, b, c⟩) = decodeWord (wordOf ⟨0x42, 0, a, 0, 0⟩)) ∧
  (∀ (a a' : Word) (s : State), a.toNat % 16384 = a'.toNat % 16384 → exec (.pitchbend a) s = exec (.pitchbend a') s) ∧
  (∀ i : Instr,
    let f := fieldsOf (encode i)
    (f.op ∈ ([0x00, 0x01] : List Byte) → f.sel = 0 ∧ f.a = 0 ∧ f.b = 0 ∧ f.c = 0) ∧
    (f.op ∈ ([0x12, 0x22, 0x30] : List Byte) → f.a = 0 ∧ f.b = 0 ∧ f.c = 0) ∧
    (f.op ∈ ([0x10, 0x11, 0x19, 0x1A, 0x1B] : List Byte) → f.b = 0 ∧ f.c = 0) ∧
    (f.op = 0x18 → f.a = 0 ∧ f.c = 0) ∧ (f.op = 0x21 → f.a = 0) ∧ (f.op = 0x40 → f.sel = 0 ∧ f.a = 0) ∧
    (f.op = 0x41 → f.sel = 0 ∧ f.a = 0 ∧ f.c = 0) ∧ (f.op = 0x42 → f.sel = 0 ∧ f.b = 0 ∧ f.c = 0))

/-- R81: every word has exactly one meaning, the row its opcode selects with a legal selector, or NOP; no word stops the block. -/
def Obligations.EveryWordHasAMeaning : Prop :=
  ∀ w : EventWord,
    (decodeWord w).wellFormed = true ∧
    (((fieldsOf w).op ∈ usedOpcodes ∧ (rowOf (fieldsOf w)).wellFormed = true ∧ decodeWord w = rowOf (fieldsOf w)) ∨
      (((fieldsOf w).op ∉ usedOpcodes ∨ (rowOf (fieldsOf w)).wellFormed = false) ∧ decodeWord w = .nop)) ∧
    ∀ s : State, ∃ t, exec (decodeWord w) s = .next t

/-! ### The step -/

/-- R11, R58 (the sequence in the state is the model's own form of R11's, log 1): a step takes the next event word off the sequence
and executes what it decodes to; a row's word put in place is what the next step runs. -/
def Obligations.StepRunsTheDecodedEvent : Prop :=
  (∀ (s : State) (w : EventWord) (rest : List EventWord),
    step { s with events := w :: rest } = exec (decodeWord w) { s with events := rest }) ∧
  (∀ (s : State) (i : Instr) (rest : List EventWord), i.wellFormed = true →
    step { s with events := encode i :: rest } = exec i { s with events := rest }) ∧
  (∀ (s : State) (n : Nat), step (s.withFetchWord 48 n) = exec (decodeWord (BitVec.ofNat 48 n)) s)

/-- The model's choice (log 2, DEDUCED from R222 and R231): with no event waiting a step holds the state. -/
def Obligations.IdleStepHoldsTheState : Prop := ∀ s : State, step { s with events := [] } = .next { s with events := [] }

/-- R210: every event runs to completion with exactly one next state. A run of n steps takes exactly the first n events of the
sequence, and holds the state where there are fewer (the sequence in the state and the idle step are the model's own, logs 1 and 2). -/
def Obligations.EveryRunCompletes : Prop :=
  (∀ (i : Instr) (s : State), ∃ t, exec i s = .next t ∧ t.events = s.events) ∧
  (∀ (n : Nat) (s : State), ∃ t, RunsTo n s t ∧ t.events = s.events.drop n)

/-! ### Reset -/

/-- R36: the reset value of every field. -/
def Obligations.ResetHoldsTheSpecValues : Prop :=
  (∀ k : Fin 4, State.reset.acc[k].pos = 0 ∧ State.reset.acc[k].inc = 0 ∧ State.reset.ovf[k] = false) ∧
  (∀ e : Fin 3, State.reset.env[e].amp = 0 ∧ State.reset.env[e].dec = 0 ∧ State.reset.env[e].div = 0 ∧
    State.reset.env[e].cnt = 0) ∧
  State.reset.gate = .closed ∧ State.reset.note.num = 0 ∧ State.reset.note.vel = 0 ∧ State.reset.mix = 0 ∧
  State.reset.pwm = 0x80 ∧ State.reset.out = []

/-- R230 and the invariants of R37, R121 and R30 at reset; the reset pin gives that state from every state (the counter of free values
going on is the model's choice, log 10). -/
def Obligations.ResetMeetsTheInvariants : Prop :=
  InContract State.reset ∧ CountersBelowWrap State.reset ∧ OutputShowsTrace State.reset ∧
  ∀ s : State, s.rst = { State.reset with draws := s.draws }

/-- R158: a TICK in the reset state changes nothing but the trace, to which it appends 128; so do any number of them. -/
def Obligations.TicksFromResetWriteTheCentre : Prop :=
  (∀ (o : List Byte) (es : List EventWord) (n : Nat),
    exec .tick { State.reset with out := o, events := es, draws := n } =
      .next { State.reset with out := o ++ [128], events := es, draws := n }) ∧
  (∀ (o : List Byte) (es : List EventWord) (d n : Nat),
    (tick params)^[n] { State.reset with out := o, events := es, draws := d } =
      { State.reset with out := o ++ List.replicate n 128, events := es, draws := d })

/-! ### The phase accumulator -/

/-- R92: `PA_SETINC`. -/
def Obligations.PaSetincWritesTheIncrement : Prop :=
  (∀ (k : Fin 4) (v : Word) (s : State),
    exec (.paSetinc (BitVec.ofNat 8 k.val) v) s = .next { s with acc := s.acc.set k { s.acc[k] with inc := v } }) ∧
  (∀ (sel : Byte) (v : Word) (s : State), 4 ≤ sel.toNat → exec (.paSetinc sel v) s = .next s) ∧
  (∀ sel v b c, decodeWord (wordOf ⟨0x10, sel, v, b, c⟩) = if sel.toNat < 4 then .paSetinc sel v else .nop)

/-- R93: `PA_MODULATE`. No flag moves even when the addition wraps. -/
def Obligations.PaModulateOffsetsThePosition : Prop :=
  (∀ (k : Fin 4) (d : Word) (s : State),
    exec (.paModulate (BitVec.ofNat 8 k.val) d) s =
      .next { s with acc := s.acc.set k { s.acc[k] with pos := BitVec.ofNat 16 ((s.acc[k].pos.toNat + d.toNat) % 65536) } }) ∧
  (∀ (sel : Byte) (d : Word) (s : State), 4 ≤ sel.toNat → exec (.paModulate sel d) s = .next s) ∧
  (∀ sel d b c, decodeWord (wordOf ⟨0x11, sel, d, b, c⟩) = if sel.toNat < 4 then .paModulate sel d else .nop)

/-- R93 corner cases: two modulations equal one by the sum, a delta read as signed gives the same result, and from position p the
delta q - p sets the position to q. -/
def Obligations.ModulationsAddUp : Prop :=
  ∀ (k : Fin 4) (s : State),
    (∀ d1 d2 : Word, modulate k d2 (modulate k d1 s) = modulate k (d1 + d2) s) ∧
    (∀ d : Word, ∃ t, exec (.paModulate (BitVec.ofNat 8 k.val) d) s = .next t ∧
      (t.acc[k].pos.toNat : Int) = ((s.acc[k].pos.toNat : Int) + d.toInt) % 65536) ∧
    (∀ q : Word, ∃ t, exec (.paModulate (BitVec.ofNat 8 k.val) (q - s.acc[k].pos)) s = .next t ∧ t.acc[k].pos = q ∧
      t.ovf = s.ovf)

/-- R94, R90: `PA_ADVANCE` is one `Advance(k)`: the position wraps modulo 2^16 and the flag is the unsigned compare of the two
positions. No grain is reset. -/
def Obligations.PaAdvanceMovesThePosition : Prop :=
  (∀ (k : Fin 4) (s : State),
    let old := s.acc[k].pos.toNat
    let new := (old + s.acc[k].inc.toNat) % 65536
    exec (.paAdvance (BitVec.ofNat 8 k.val)) s =
      .next { s with acc := s.acc.set k { s.acc[k] with pos := BitVec.ofNat 16 new }, ovf := s.ovf.set k (decide (new < old)) }) ∧
  (∀ (sel : Byte) (s : State), 4 ≤ sel.toNat → exec (.paAdvance sel) s = .next s) ∧
  (∀ sel a b c, decodeWord (wordOf ⟨0x12, sel, a, b, c⟩) = if sel.toNat < 4 then .paAdvance sel else .nop)

/-- R91: the overflow law, three readings of one flag, and what an increment of 0 does. -/
def Obligations.OverflowReportsTheTrueSum : Prop :=
  ∀ (k : Fin 4) (s : State), ∃ t,
    exec (.paAdvance (BitVec.ofNat 8 k.val)) s = .next t ∧
    (t.ovf[k] = true ↔ t.acc[k].pos.toNat < s.acc[k].pos.toNat) ∧
    (t.ovf[k] = true ↔ 65536 ≤ s.acc[k].pos.toNat + s.acc[k].inc.toNat) ∧
    (t.ovf[k] = true ↔ 0 < s.acc[k].inc.toNat ∧ t.acc[k].pos.toNat < s.acc[k].inc.toNat) ∧
    (s.acc[k].inc = 0 → t.ovf[k] = false ∧ t.acc[k].pos = s.acc[k].pos) ∧
    (0 < s.acc[k].inc.toNat → (t.ovf[k] = true ↔ 65536 - s.acc[k].inc.toNat ≤ s.acc[k].pos.toNat))

/-- R96, first sentence: n advances with a constant increment report floor((pos0 + n * inc) / 65536) overflows. -/
def Obligations.OverflowCountFollowsTheRateLaw : Prop :=
  ∀ (n : Nat) (k : Fin 4) (s : State),
    wrapsIn k n s = (s.acc[k].pos.toNat + n * s.acc[k].inc.toNat) / 65536

/-! ### The envelope -/

/-- R113, R111: `ENV_RESET` writes all four fields of one envelope, the counter to 0. -/
def Obligations.EnvResetLoadsTheEnvelope : Prop :=
  (∀ (e : Fin 3) (a : Word) (d v : Byte) (s : State),
    exec (.envReset (BitVec.ofNat 8 e.val) a d v) s =
      .next { s with env := s.env.set e { amp := a, dec := d, div := v, cnt := 0 } }) ∧
  (∀ (sel : Byte) (a : Word) (d v : Byte) (s : State), 3 ≤ sel.toNat → exec (.envReset sel a d v) s = .next s) ∧
  (∀ sel a b c, decodeWord (wordOf ⟨0x20, sel, a, b, c⟩) = if sel.toNat < 3 then .envReset sel a b c else .nop)

/-- R114: `ENV_SETDECAY` writes the decay parameters and neither the amplitude nor the counter. -/
def Obligations.EnvSetdecayKeepsTheLevel : Prop :=
  (∀ (e : Fin 3) (d v : Byte) (s : State),
    exec (.envSetdecay (BitVec.ofNat 8 e.val) d v) s =
      .next { s with env := s.env.set e { s.env[e] with dec := d, div := v } }) ∧
  (∀ (sel : Byte) (d v : Byte) (s : State), 3 ≤ sel.toNat → exec (.envSetdecay sel d v) s = .next s) ∧
  (∀ sel a b c, decodeWord (wordOf ⟨0x21, sel, a, b, c⟩) = if sel.toNat < 3 then .envSetdecay sel b c else .nop)

/-- R115, R110: `ENV_TICK` is one `EnvTick(e)`, whatever the gate is. -/
def Obligations.EnvTickCountsAndDecays : Prop :=
  (∀ (e : Fin 3) (s : State),
    let cnt := (s.env[e].cnt.toNat + 1) % 256
    let d := if 16 ≤ s.env[e].dec.toNat then 0 else s.env[e].amp.toNat / 2 ^ s.env[e].dec.toNat
    let after : Envelope :=
      if s.env[e].div.toNat ≤ cnt then { s.env[e] with cnt := 0, amp := BitVec.ofNat 16 (max 0 (s.env[e].amp.toNat - d)) }
      else { s.env[e] with cnt := BitVec.ofNat 8 cnt }
    exec (.envTick (BitVec.ofNat 8 e.val)) s = .next { s with env := s.env.set e after }) ∧
  (∀ (sel : Byte) (s : State), 3 ≤ sel.toNat → exec (.envTick sel) s = .next s) ∧
  (∀ sel a b c, decodeWord (wordOf ⟨0x22, sel, a, b, c⟩) = if sel.toNat < 3 then .envTick sel else .nop)

/-- R116, R117: over any number of `EnvTick` calls the amplitude never rises, and the floor at zero never engages. -/
def Obligations.AmplitudeNeverRises : Prop :=
  (∀ (e : Fin 3) (s : State) (m n : Nat), m ≤ n →
    ((envTick e)^[n] s).env[e].amp.toNat ≤ ((envTick e)^[m] s).env[e].amp.toNat) ∧
  (∀ (amp : Word) (dec : Byte), (decrement amp dec).toNat ≤ amp.toNat ∧
    (decayed amp dec).toNat + (decrement amp dec).toNat = amp.toNat)

/-- R118, its sentences on the fixed points and on `dec` = 1 and 0; R119 on shift counts; R120 on dividers 0 and 1. With divider 1 a
counter of 255, which R121 rules out, would wrap to 0 and not decay; with divider 0 no counter is excepted. -/
def Obligations.DecayFixedPoints : Prop :=
  (∀ (amp : Word) (dec : Byte), decayed amp dec = amp ↔ (16 ≤ dec.toNat ∨ amp.toNat < 2 ^ dec.toNat)) ∧
  (∀ amp : Word, (decayed amp 1).toNat = (amp.toNat + 1) / 2) ∧
  (∀ amp : Word, (decayed amp 1).toNat = 0 ↔ amp.toNat = 0) ∧
  (∀ amp : Word, decayed amp 0 = 0) ∧
  (∀ (amp : Word) (dec : Byte), (dec.toNat < 16 → (decrement amp dec).toNat = amp.toNat / 2 ^ dec.toNat) ∧
    (16 ≤ dec.toNat → decrement amp dec = 0)) ∧
  (∀ v : Envelope,
    ({ v with div := 0 } : Envelope).tick = { v with div := 0, cnt := 0, amp := decayed v.amp v.dec } ∧
    (v.cnt.toNat ≤ 254 → ({ v with div := 1 } : Envelope).tick = { v with div := 1, cnt := 0, amp := decayed v.amp v.dec }))

/-- R121: the counter after an `EnvTick` is below the divider or 0, so at most 254, and 0 after an `EnvReset`; a divider lowered to or
below the counter makes the next `EnvTick` decay and clear the counter. -/
def Obligations.CounterStaysBelowTheDivider : Prop :=
  (∀ (e : Fin 3) (s : State), ∃ t, exec (.envTick (BitVec.ofNat 8 e.val)) s = .next t ∧
    t.env[e].cnt.toNat < max 1 s.env[e].div.toNat ∧ t.env[e].cnt.toNat ≤ 254) ∧
  (∀ (e : Fin 3) (a : Word) (d v : Byte) (s : State), ∃ t, exec (.envReset (BitVec.ofNat 8 e.val) a d v) s = .next t ∧
    t.env[e].cnt = 0) ∧
  (∀ (e : Fin 3) (d v : Byte) (s : State), s.env[e].cnt.toNat ≤ 254 → v.toNat ≤ s.env[e].cnt.toNat →
    ∃ t u, exec (.envSetdecay (BitVec.ofNat 8 e.val) d v) s = .next t ∧ exec (.envTick (BitVec.ofNat 8 e.val)) t = .next u ∧
      u.env[e].cnt = 0 ∧ u.env[e].amp = decayed s.env[e].amp d)

/-! ### The grain -/

/-- R135, R131: `GR_RESET` sets the grain's position to 0 and its envelope to full scale with the counter cleared; increment, decay
parameters and flags stay. -/
def Obligations.GrResetRestartsTheGrain : Prop :=
  (∀ s : State, exec (.grReset 0) s =
    .next { s with acc := s.acc.set 2 { s.acc[2] with pos := 0 }, env := s.env.set 1 { s.env[1] with amp := 0x7FFF, cnt := 0 } }) ∧
  (∀ s : State, exec (.grReset 1) s =
    .next { s with acc := s.acc.set 3 { s.acc[3] with pos := 0 }, env := s.env.set 2 { s.env[2] with amp := 0x7FFF, cnt := 0 } }) ∧
  (∀ (sel : Byte) (s : State), 2 ≤ sel.toNat → exec (.grReset sel) s = .next s) ∧
  (∀ sel a b c, decodeWord (wordOf ⟨0x30, sel, a, b, c⟩) = if sel.toNat < 2 then .grReset sel else .nop)

/-- R133, R137: for every contents of `WAVE`, a sample is the waveform value at the nine high bits of the grain's position times the
envelope's high byte, and its ranges follow. -/
def Obligations.SampleIsWaveTimesEnvelope : Prop :=
  ∀ (p : Params) (s : State),
    (∀ i : Fin 512, i.val = s.acc[2].pos.toNat / 128 → sample p 0 s = (p.wave i).toNat * (s.env[1].amp.toNat / 256)) ∧
    (∀ i : Fin 512, i.val = s.acc[3].pos.toNat / 128 → sample p 1 s = (p.wave i).toNat * (s.env[2].amp.toNat / 256)) ∧
    (∀ g : Fin 2, sample p g s ≤ 255 * (s.env[grainEnv g].amp.toNat / 256) ∧ sample p g s ≤ 65025 ∧
      (s.env[grainEnv g].amp.toNat ≤ 0x7FFF → sample p g s ≤ 32385))

/-! ### The tick -/

/-- R145 with its steps R146 to R151 and R153, for every contents of the tables: the state after a TICK, field by field. That the waiting
events and the count of draws stay is about the model's own two fields (logs 1 and 3). -/
def Obligations.TickRunsTheSevenSteps : Prop :=
  (∀ s : State, exec .tick s = .next (tick params s)) ∧
  (∀ (p : Params) (s : State),
    let t := tick p s
    let wraps : Fin 2 → Prop := fun g => 65536 ≤ s.acc[syncAcc g].pos.toNat + s.acc[syncAcc g].inc.toNat
    -- steps 1 and 3: all four accumulators, a retriggered grain from position 0
    (∀ g : Fin 2, t.acc[syncAcc g] = { s.acc[syncAcc g] with pos := s.acc[syncAcc g].pos + s.acc[syncAcc g].inc } ∧
      (t.ovf[syncAcc g] = true ↔ wraps g)) ∧
    (∀ g : Fin 2, wraps g → t.acc[grainAcc g] = { s.acc[grainAcc g] with pos := s.acc[grainAcc g].inc } ∧
      t.ovf[grainAcc g] = false) ∧
    (∀ g : Fin 2, ¬ wraps g →
      t.acc[grainAcc g] = { s.acc[grainAcc g] with pos := s.acc[grainAcc g].pos + s.acc[grainAcc g].inc } ∧
      (t.ovf[grainAcc g] = true ↔ 65536 ≤ s.acc[grainAcc g].pos.toNat + s.acc[grainAcc g].inc.toNat)) ∧
    -- steps 2 and 5: the grain envelopes, a retriggered one from full scale
    (∀ g : Fin 2, wraps g → t.env[grainEnv g] = ({ s.env[grainEnv g] with amp := p.grainFullScale, cnt := 0 } : Envelope).tick) ∧
    (∀ g : Fin 2, ¬ wraps g → t.env[grainEnv g] = s.env[grainEnv g].tick) ∧
    -- step 4: the positions after step 3, the amplitudes before step 5
    (∀ a : Fin 2 → Word, (∀ g, wraps g → a g = p.grainFullScale) → (∀ g, ¬ wraps g → a g = s.env[grainEnv g].amp) →
      t.mix = BitVec.ofNat 16
        ((p.wave (waveIndex t.acc[grainAcc 0].pos)).toNat * ((a 0).toNat / 256) +
          (p.wave (waveIndex t.acc[grainAcc 1].pos)).toNat * ((a 1).toNat / 256))) ∧
    -- step 6: the master envelope
    (s.gate = .closed → t.env[0] = s.env[0].tick) ∧
    (s.gate = .opened → t.env[0] = s.env[0]) ∧
    -- step 7: one sample written
    t.pwm = finalise p t.mix t.env[0].amp ∧
    t.out = s.out ++ [t.pwm] ∧
    -- the frame
    t.gate = s.gate ∧ t.note = s.note ∧ t.events = s.events ∧ t.draws = s.draws)

/-- R136: a grain never resets itself. In a TICK whose sync accumulator does not wrap, and in any PA_ADVANCE or ENV_TICK, neither the
grain's own wrap nor its decay sets its position to 0 or its amplitude up. -/
def Obligations.GrainNeverResetsItself : Prop :=
  ∀ (g : Fin 2) (s : State),
    (s.acc[syncAcc g].pos.toNat + s.acc[syncAcc g].inc.toNat < 65536 →
      ∃ t, exec .tick s = .next t ∧ t.acc[grainAcc g].pos = s.acc[grainAcc g].pos + s.acc[grainAcc g].inc ∧
        t.env[grainEnv g].amp.toNat ≤ s.env[grainEnv g].amp.toNat) ∧
    (∀ sel : Byte, ∃ t, exec (.paAdvance sel) s = .next t ∧ t.env = s.env) ∧
    (∀ sel : Byte, ∃ t, exec (.envTick sel) s = .next t ∧ t.acc = s.acc ∧
      t.env[grainEnv g].amp.toNat ≤ s.env[grainEnv g].amp.toNat)

/-- R152: the output stage with this hardware's constants; floor division by 128 is the arithmetic shift by 7. -/
def Obligations.FinaliseCentresScalesAndReoffsets : Prop :=
  (∀ m a : Word,
    finalise params m a =
      BitVec.ofInt 8 (Int.fdiv ((((m.toNat / 256 : Nat) : Int) - 128) * ((a.toNat / 256 : Nat) : Int)) 128 + 128)) ∧
  (∀ (p : Params) (m a : Word), a.toNat < 256 → finalise p m a = BitVec.ofInt 8 p.outCenter)

/-- R155: the range of the output stage. -/
def Obligations.OutputRangeFollowsTheMasterByte : Prop :=
  (∀ m a : Word, a.toNat / 256 ≤ 128 →
    ((finalise params m a).toNat : Int) =
      Int.fdiv ((((m.toNat / 256 : Nat) : Int) - 128) * ((a.toNat / 256 : Nat) : Int)) 128 + 128) ∧
  (∀ m a : Word, a.toNat / 256 ≤ 127 → m.toNat ≤ 64770 → SampleInRange (finalise params m a)) ∧
  (∀ m a : Word, a.toNat < 256 → finalise params m a = 128) ∧
  finalise params 0 0xFFFF = 129 ∧ finalise params 0xFFFF 0xFFFF = 125

/-- R154: the mixing bound, for every contents of `WAVE`. -/
def Obligations.MixingNeverOverflowsInContract : Prop :=
  (∀ (p : Params) (s : State), s.env[1].amp.toNat ≤ 0x7FFF → s.env[2].amp.toNat ≤ 0x7FFF →
    sample p 0 s + sample p 1 s ≤ 64770 ∧ (tickMix p s).mix.toNat = sample p 0 s + sample p 1 s) ∧
  (∀ (p : Params) (s : State), p.grainFullScale.toNat ≤ 0x7FFF → s.env[1].amp.toNat ≤ 0x7FFF → s.env[2].amp.toNat ≤ 0x7FFF →
    (tick p s).mix.toNat ≤ 64770)

/-- R153: exactly one sample per TICK, none by any other event; the pin `pwm_valid` pulses once for it (R30). That the pin is the growth
of the trace is the model's choice (log 14). -/
def Obligations.OnlyTickWritesTheOutput : Prop :=
  ∀ (i : Instr) (s : State), ∃ t, exec i s = .next t ∧
    (i = .tick → t.out = s.out ++ [t.pwm] ∧ t.pwm = finalise params t.mix t.env[0].amp ∧ pwmValidPulses s t = 1) ∧
    (i ≠ .tick → t.out = s.out ∧ t.pwm = s.pwm ∧ t.mix = s.mix ∧ pwmValidPulses s t = 0)

/-- R157: `NOP` changes nothing, and is the word 0. -/
def Obligations.NopChangesNothing : Prop :=
  (∀ s : State, exec .nop s = .next s) ∧ (∀ sel a b c, decodeWord (wordOf ⟨0x00, sel, a, b, c⟩) = .nop)

/-! ### The lookup tables -/

/-- R171, R172: entry p of `CHROMA` is round(440 * 2^((p-69)/12) * 65536 / 31250), and the entries rise strictly. -/
def Obligations.ChromaIsTheRoundedPitch : Prop :=
  (∀ p : Fin 128,
    ((chroma p).toNat : Int) = round ((440 : ℝ) * (2 : ℝ) ^ (((p.val : ℝ) - 69) / 12) * 65536 / (sampleRate : ℝ))) ∧
  (∀ p q : Fin 128, p < q → (chroma p).toNat < (chroma q).toNat)

/-- R174: the default contents of `ANTILOG`, round(65536 * 2^(-(i+1)/64)). -/
def Obligations.AntilogDefaultHalvesOverTheTable : Prop :=
  ∀ i : Fin 64, ((params.antilog i).toNat : Int) = round ((65536 : ℝ) * (2 : ℝ) ^ (-((i.val : ℝ) + 1) / 64))

/-- R177, R138: the default contents of `PENTA`, 0 and the chromatic entries of the pitch classes 2, 4, 7, 9, 11 from 2 on, and of
`WAVE`, which gives the high byte of a position. -/
def Obligations.DefaultTablesAreAsListed : Prop :=
  (List.ofFn params.penta =
    0 :: ((List.finRange 128).filter fun p => decide (2 ≤ p.val) && ([2, 4, 7, 9, 11].contains (p.val % 12))).map chroma) ∧
  (∀ pos : Word, (params.wave (waveIndex pos)).toNat = pos.toNat / 256)

/-- R179, R173, R178: `PA_SETINC_CHROMA`. Outside the contract some value is written and every other field is as inside it (the count of
draws is the model's own, log 3, and nothing is claimed of it). -/
def Obligations.PaSetincChromaWritesTheEntry : Prop :=
  (∀ (k : Fin 4) (b : Byte) (p : Fin 128) (s : State), b.toNat = p.val →
    exec (.paSetincChroma (BitVec.ofNat 8 k.val) b) s =
      .next { s with acc := s.acc.set k { s.acc[k] with inc := chroma p } }) ∧
  (∀ (k : Fin 4) (b : Byte) (s : State), 128 ≤ b.toNat → ∃ (v : Word) (d : Nat),
    exec (.paSetincChroma (BitVec.ofNat 8 k.val) b) s =
      .next { s with acc := s.acc.set k { s.acc[k] with inc := v }, draws := d }) ∧
  (∀ (sel : Byte) (b : Byte) (s : State), 4 ≤ sel.toNat → exec (.paSetincChroma sel b) s = .next s) ∧
  (∀ sel a b c, decodeWord (wordOf ⟨0x18, sel, a, b, c⟩) = if sel.toNat < 4 then .paSetincChroma sel b else .nop)

/-- R180, R176, R178: `PA_SETINC_ANTILOG`. -/
def Obligations.PaSetincAntilogShiftsTheEntry : Prop :=
  (∀ (k : Fin 4) (a : Word) (i : Fin 64) (s : State), a.toNat ≤ 1023 → i.val = (a.extractLsb' 0 6).toNat →
    exec (.paSetincAntilog (BitVec.ofNat 8 k.val) a) s =
      .next { s with acc := s.acc.set k { s.acc[k] with inc := params.antilog i >>> (a.extractLsb' 6 4).toNat } }) ∧
  (∀ (k : Fin 4) (a : Word) (s : State), 1024 ≤ a.toNat → ∃ (v : Word) (d : Nat),
    exec (.paSetincAntilog (BitVec.ofNat 8 k.val) a) s =
      .next { s with acc := s.acc.set k { s.acc[k] with inc := v }, draws := d }) ∧
  (∀ (sel : Byte) (a : Word) (s : State), 4 ≤ sel.toNat → exec (.paSetincAntilog sel a) s = .next s) ∧
  (∀ sel a b c, decodeWord (wordOf ⟨0x19, sel, a, b, c⟩) = if sel.toNat < 4 then .paSetincAntilog sel a else .nop)

/-- R181, R175, R178: `PA_SETINC_CHROMAK`; readings 8n to 8n+7 give entry 127 - n. -/
def Obligations.PaSetincChromakInvertsTheReading : Prop :=
  (∀ (k : Fin 4) (a : Word) (p : Fin 128) (s : State), a.toNat ≤ 1023 → p.val = 127 - a.toNat / 8 →
    exec (.paSetincChromak (BitVec.ofNat 8 k.val) a) s =
      .next { s with acc := s.acc.set k { s.acc[k] with inc := chroma p } }) ∧
  (∀ (k : Fin 4) (a : Word) (s : State), 1024 ≤ a.toNat → ∃ (v : Word) (d : Nat),
    exec (.paSetincChromak (BitVec.ofNat 8 k.val) a) s =
      .next { s with acc := s.acc.set k { s.acc[k] with inc := v }, draws := d }) ∧
  (∀ (sel : Byte) (a : Word) (s : State), 4 ≤ sel.toNat → exec (.paSetincChromak sel a) s = .next s) ∧
  (∀ sel a b c, decodeWord (wordOf ⟨0x1A, sel, a, b, c⟩) = if sel.toNat < 4 then .paSetincChromak sel a else .nop)

/-- R182, R183, R178: `PA_SETINC_PENTA`. -/
def Obligations.PaSetincPentaDividesTheReading : Prop :=
  (∀ (k : Fin 4) (a : Word) (i : Fin 54) (s : State), a.toNat ≤ 1023 → i.val = (1023 - a.toNat) / 19 →
    exec (.paSetincPenta (BitVec.ofNat 8 k.val) a) s =
      .next { s with acc := s.acc.set k { s.acc[k] with inc := params.penta i } }) ∧
  (∀ (k : Fin 4) (a : Word) (s : State), 1024 ≤ a.toNat → ∃ (v : Word) (d : Nat),
    exec (.paSetincPenta (BitVec.ofNat 8 k.val) a) s =
      .next { s with acc := s.acc.set k { s.acc[k] with inc := v }, draws := d }) ∧
  (∀ (sel : Byte) (a : Word) (s : State), 4 ≤ sel.toNat → exec (.paSetincPenta sel a) s = .next s) ∧
  (∀ sel a b c, decodeWord (wordOf ⟨0x1B, sel, a, b, c⟩) = if sel.toNat < 4 then .paSetincPenta sel a else .nop)

/-! ### The voice -/

/-- R191: `NOTE_ON` with velocity above zero. Each sync increment is the chromatic entry 24, or 17, below the key where that is in the
table, and some value elsewhere (the count of draws is the model's own, log 3). -/
def Obligations.NoteOnStartsTheNote : Prop :=
  (∀ (n v : Byte) (s : State), 0 < v.toNat → ∃ (x0 x1 : Word) (d : Nat),
    exec (.noteOn n v) s =
      .next { s with
        acc := (s.acc.set 0 { s.acc[0] with inc := x0 }).set 1 { s.acc[1] with inc := x1 },
        env := s.env.set 0 { amp := BitVec.ofNat 16 (v.toNat * 256), dec := 1, div := 4, cnt := 0 },
        gate := .opened,
        note := { num := n, vel := v },
        draws := d } ∧
    (∀ p : Fin 128, n.toNat = p.val + 24 → x0 = chroma p) ∧
    (∀ p : Fin 128, n.toNat = p.val + 17 → x1 = chroma p)) ∧
  (∀ sel a n v, decodeWord (wordOf ⟨0x40, sel, a, n, v⟩) = .noteOn n v)

/-- R192, R193: a release closes the gate when it names the held key, all eight bits compared, and changes nothing otherwise;
`NOTE_OFF n` and `NOTE_ON n, 0` do the same. -/
def Obligations.ReleaseOfTheHeldKeyClosesTheGate : Prop :=
  (∀ (n : Byte) (s : State), n = s.note.num → exec (.noteOff n) s = .next { s with gate := .closed }) ∧
  (∀ (n : Byte) (s : State), n ≠ s.note.num → exec (.noteOff n) s = .next s) ∧
  (∀ (n : Byte) (s : State), exec (.noteOn n 0) s = exec (.noteOff n) s) ∧
  (∀ sel a n c, decodeWord (wordOf ⟨0x41, sel, a, n, c⟩) = .noteOff n)

/-- R194: `PITCHBEND` adds value - 8192, of the low 14 bits, to both sync positions; no flag moves. -/
def Obligations.PitchbendOffsetsBothSyncPositions : Prop :=
  (∀ (a : Word) (s : State),
    let bent : Word → Word := fun pos => BitVec.ofInt 16 ((pos.toNat : Int) + (((a.toNat % 16384 : Nat) : Int) - 8192))
    exec (.pitchbend a) s =
      .next { s with acc := (s.acc.set 0 { s.acc[0] with pos := bent s.acc[0].pos }).set 1 { s.acc[1] with pos := bent s.acc[1].pos } }) ∧
  (∀ sel a b c, decodeWord (wordOf ⟨0x42, sel, a, b, c⟩) = .pitchbend a)

/-- R190: the transitions of the note, exactly. -/
def Obligations.NoteStateMachine : Prop :=
  ∀ (i : Instr) (s : State), ∃ t, exec i s = .next t ∧
    (∀ n v, i = .noteOn n v → 0 < v.toNat → t.gate = .opened ∧ t.note = { num := n, vel := v }) ∧
    (∀ n, i = .noteOn n 0 ∨ i = .noteOff n → n = s.note.num → t.gate = .closed ∧ t.note = s.note) ∧
    (∀ n, i = .noteOn n 0 ∨ i = .noteOff n → n ≠ s.note.num → t.gate = s.gate ∧ t.note = s.note) ∧
    ((∀ n v, i ≠ .noteOn n v) → (∀ n, i ≠ .noteOff n) → t.gate = s.gate ∧ t.note = s.note)

/-! ### Frames and whole-machine rules -/

/-- R22 and the column "written by" of R20 for the accumulators and flags: an event that may not write a field leaves it. -/
def Obligations.AccumulatorFrames : Prop :=
  ∀ (i : Instr) (s : State) (k : Fin 4), ∃ t, exec i s = .next t ∧
    (¬ MayWritePos k i → t.acc[k].pos = s.acc[k].pos) ∧
    (¬ MayWriteInc k i → t.acc[k].inc = s.acc[k].inc) ∧
    (¬ MayWriteOvf k i → t.ovf[k] = s.ovf[k])

/-- R27 and the column "written by" of R20 for the envelopes: an event that may not write a field leaves it. -/
def Obligations.EnvelopeFrames : Prop :=
  ∀ (i : Instr) (s : State) (e : Fin 3), ∃ t, exec i s = .next t ∧
    (¬ MayWriteLevel e i → t.env[e].amp = s.env[e].amp ∧ t.env[e].cnt = s.env[e].cnt) ∧
    (¬ MayWriteDecay e i → t.env[e].dec = s.env[e].dec ∧ t.env[e].div = s.env[e].div)

/-- R37: the ranges hold in every state of a run that keeps the contract. An invariant of every step, from every state that
meets it; the waiting events in the state are the model's form of a run (log 1). -/
def Obligations.StepKeepsTheContractRanges : Prop := ∀ s t : State, InContract s → step s = .next t → InContract t

/-- R121, as an invariant of every step whatever the events: no envelope counter reaches 255. -/
def Obligations.StepKeepsCountersBelowWrap : Prop :=
  ∀ s t : State, CountersBelowWrap s → step s = .next t → CountersBelowWrap t

/-- R30: `pwm` holds the last sample written, an invariant of every step; the pins show it. -/
def Obligations.StepKeepsOutputShowingTheTrace : Prop :=
  ∀ s t : State, OutputShowsTrace s → step s = .next t → OutputShowsTrace t ∧ pwmOut t = t.pwm

/-- R25, R28, R29, R30: the overflow flags an earlier event left, the velocity, `mix`, `pwm` and the trace are never an input. Two states
that differ only in them go on alike, and a TICK gives both the same sample. That two states with the same count of draws draw the same
value in a lookup outside its range is the model's choice (log 3): R178 does not say that two such lookups agree. -/
def Obligations.FlagsVelocityAndOutputAreNeverInputs : Prop :=
  ∀ (i : Instr) (s t : State), SameInputs s t →
    ∃ s' t', exec i s = .next s' ∧ exec i t = .next t' ∧ SameInputs s' t' ∧
      (i = .tick → s'.ovf = t'.ovf ∧ s'.mix = t'.mix ∧ s'.pwm = t'.pwm)

/-- R130: the two grains are uncoupled. What an event does to grain g and its sync accumulator depends on nothing of the other grain, the
master envelope, the gate or the note. That two states with the same count of draws draw the same increment in a lookup outside its range
is the model's choice (log 3): R178 does not say that two such lookups agree. -/
def Obligations.GrainsAreUncoupled : Prop :=
  ∀ (g : Fin 2) (i : Instr) (s t : State), SameGrain g s t →
    ∃ s' t', exec i s = .next s' ∧ exec i t = .next t' ∧ SameGrain g s' t'

/-! ### The read port and the ports -/

/-- R32, R33, R65: what the read port shows at each register address. -/
def Obligations.RegisterMapShowsTheState : Prop :=
  ∀ s : State,
    (∀ k : Fin 4, readPort s (BitVec.ofNat 10 (2 * k.val)) = s.acc[k].pos ∧
      readPort s (BitVec.ofNat 10 (2 * k.val + 1)) = s.acc[k].inc) ∧
    (∀ e : Fin 3, readPort s (BitVec.ofNat 10 (8 + 3 * e.val)) = s.env[e].amp ∧
      (readPort s (BitVec.ofNat 10 (9 + 3 * e.val))).toNat = s.env[e].dec.toNat * 256 + s.env[e].div.toNat ∧
      (readPort s (BitVec.ofNat 10 (10 + 3 * e.val))).toNat = s.env[e].cnt.toNat) ∧
    (readPort s 0x011).toNat = s.note.num.toNat * 256 + s.note.vel.toNat ∧
    ((readPort s 0x012).getLsbD 0 = true ↔ s.gate = .opened) ∧
    (∀ k : Fin 4, (readPort s 0x012).getLsbD (1 + k.val) = s.ovf[k]) ∧
    (readPort s 0x012).toNat < 32 ∧
    readPort s 0x013 = s.mix ∧ (readPort s 0x014).toNat = s.pwm.toNat ∧
    (readPort s 0x015).toNat = sample params 0 s ∧ (readPort s 0x016).toNat = sample params 1 s ∧
    (∀ a : BitVec 10, 0x017 ≤ a.toNat → a.toNat ≤ 0x0FF → readPort s a = 0)

/-- R51, R53: the tables read at their addresses whatever the state, and the reserved addresses read 0. -/
def Obligations.TablesAndReservedAddressesReadTheSame : Prop :=
  ∀ s : State,
    (∀ p : Fin 128, readPort s (BitVec.ofNat 10 (0x100 + p.val)) = chroma p) ∧
    (∀ i : Fin 64, readPort s (BitVec.ofNat 10 (0x180 + i.val)) = params.antilog i) ∧
    (∀ i : Fin 54, readPort s (BitVec.ofNat 10 (0x1C0 + i.val)) = params.penta i) ∧
    (∀ i : Fin 512, (readPort s (BitVec.ofNat 10 (0x200 + i.val))).toNat = (params.wave i).toNat) ∧
    (∀ a : BitVec 10, (0x017 ≤ a.toNat ∧ a.toNat ≤ 0x0FF) ∨ (0x1F6 ≤ a.toNat ∧ a.toNat ≤ 0x1FF) → readPort s a = 0)

/-- R32: every state field is visible through the read port: two states that read alike at every address have the same registers. -/
def Obligations.ReadPortDeterminesTheRegisters : Prop :=
  ∀ s t : State, (∀ a : BitVec 10, readPort s a = readPort t a) →
    s.acc = t.acc ∧ s.ovf = t.ovf ∧ s.env = t.env ∧ s.gate = t.gate ∧ s.note = t.note ∧ s.mix = t.mix ∧ s.pwm = t.pwm

/-- The frame through the read port (R92, R22): after `PA_SETINC k, v` every address but that of `acc[k].inc` reads as before. -/
def Obligations.PaSetincChangesOneAddress : Prop :=
  ∀ (k : Fin 4) (v : Word) (s : State), ∃ t, exec (.paSetinc (BitVec.ofNat 8 k.val) v) s = .next t ∧
    ∀ a : BitVec 10, readPort t a = if a.toNat = 2 * k.val + 1 then v else readPort s a

/-- R59, R214, as a function (the model's form, log 9): the sequence the two request sources become: TICK first on a tie, arrival order otherwise, no command dropped, duplicated
or moved before an earlier one, one TICK for each tick request. -/
def Obligations.RequestsBecomeOneSequence : Prop :=
  (∀ w : EventWord, Request.words ⟨true, some w⟩ = [tickWord, w] ∧ Request.words ⟨false, some w⟩ = [w] ∧
    Request.words ⟨true, none⟩ = [tickWord] ∧ Request.words ⟨false, none⟩ = []) ∧
  decodeWord tickWord = .tick ∧
  (∀ rs qs : List Request, serialise (rs ++ qs) = serialise rs ++ serialise qs) ∧
  (∀ rs : List Request, (rs.filterMap Request.cmd).Sublist (serialise rs)) ∧
  (∀ rs : List Request, (serialise rs).length = (rs.filter Request.tick).length + (rs.filterMap Request.cmd).length) ∧
  (∀ (rs : List Request), (∀ r ∈ rs, r.cmd ≠ some tickWord) →
    (serialise rs).filter (fun w => decide (w ≠ tickWord)) = rs.filterMap Request.cmd) ∧
  (∀ (rs : List Request) (s : State), (rs.foldl State.request s).events = s.events ++ serialise rs)

/-- R79, R80: the examples of the assembler syntax encode as the spec gives them, and each pseudo-instruction is its expansion. That
blanks may stand before a `;` is the model's choice (log 12). -/
def Obligations.AssemblerFollowsTheSyntax : Prop :=
  assemble "PA_SETINC SYNC0, 1000" = some [0x100003E80000] ∧
  assemble "ENV_RESET MASTER, 32512, 1, 4" = some [0x20007F000104] ∧
  assemble "NOTE_ON 69, 127" = some [0x40000000457F] ∧
  assemble "TICK" = some [0x010000000000] ∧
  assemble "TICK * 2" = some [0x010000000000, 0x010000000000] ∧
  assemble "PA_MODULATE SYNC1, -11 ; back" = some [0x1101FFF50000] ∧
  (∀ (i : Fin 2) (v : Word), (Pseudo.syncSetinc i v).expand = .paSetinc (BitVec.ofNat 8 i.val) v) ∧
  (∀ (g : Fin 2) (v : Word), (Pseudo.grSetinc g v).expand = .paSetinc (BitVec.ofNat 8 (grainAcc g).val) v) ∧
  (∀ g : Fin 2, (Pseudo.grAdvance g).expand = .paAdvance (BitVec.ofNat 8 (grainAcc g).val)) ∧
  (∀ g : Fin 2, (Pseudo.grTickenv g).expand = .envTick (BitVec.ofNat 8 (grainEnv g).val)) ∧
  (∀ (g : Fin 2) (d v : Byte), (Pseudo.grSetdecay g d v).expand = .envSetdecay (BitVec.ofNat 8 (grainEnv g).val) d v) ∧
  (∀ (i : Fin 2) (delta : Word), (Pseudo.syncModulate i delta).expand = .paModulate (BitVec.ofNat 8 i.val) delta)
end

