-- ==== Sys2Proof/Laws/Decode.lean ====
section
/-! SUPPORT. The laws of the event-word layout (30_encoding.md R70, 20_memory.md R54): each field and each byte is read back as it
was written, so decoding an encoding depends on the fields alone. -/

namespace Sys2Proof

/-- Every field of a word is read back (R70). -/
@[simp] theorem fieldsOf_wordOf (f : Fields) : fieldsOf (wordOf f) = f := by
  have op : (wordOf f).extractLsb' 40 8 = f.op := by
    unfold wordOf; ext i hi; simp only [BitVec.getElem_extractLsb', BitVec.getLsbD_append]; grind
  have sel : (wordOf f).extractLsb' 32 8 = f.sel := by
    unfold wordOf; ext i hi; simp only [BitVec.getElem_extractLsb', BitVec.getLsbD_append]; grind
  have a : (wordOf f).extractLsb' 16 16 = f.a := by
    unfold wordOf; ext i hi; simp only [BitVec.getElem_extractLsb', BitVec.getLsbD_append]; grind
  have b : (wordOf f).extractLsb' 8 8 = f.b := by
    unfold wordOf; ext i hi; simp only [BitVec.getElem_extractLsb', BitVec.getLsbD_append]; grind
  have c : (wordOf f).extractLsb' 0 8 = f.c := by
    unfold wordOf; ext i hi; simp only [BitVec.getElem_extractLsb', BitVec.getLsbD_append]; grind
  simp only [fieldsOf, op, sel, a, b, c]

/-- A word is its five fields (R70). -/
@[simp] theorem wordOf_fieldsOf (w : EventWord) : wordOf (fieldsOf w) = w := by
  unfold wordOf fieldsOf
  apply BitVec.eq_of_getLsbD_eq
  intro i hi
  simp only [BitVec.getLsbD_append, BitVec.getLsbD_extractLsb']
  grind

/-- A word is its six bytes (R54). -/
@[simp] theorem wordOfBytes_bytes (w : EventWord) :
    wordOfBytes (w.extractLsb' 40 8) (w.extractLsb' 32 8) (w.extractLsb' 24 8) (w.extractLsb' 16 8) (w.extractLsb' 8 8)
      (w.extractLsb' 0 8) = w := by
  unfold wordOfBytes
  apply BitVec.eq_of_getLsbD_eq
  intro i hi
  simp only [BitVec.getLsbD_append, BitVec.getLsbD_extractLsb']
  grind

/-- The bytes of a word decode to the word's meaning (R54). -/
theorem decode_bytesOfWord (w : EventWord) (rest : List Byte) : decode (bytesOfWord w ++ rest) = .ok (decodeWord w, rest) := by
  simp only [bytesOfWord, List.cons_append, List.nil_append, decode, wordOfBytes_bytes]

@[simp] theorem decodeWord_wordOf (f : Fields) : decodeWord (wordOf f) = decodeFields f := by simp [decodeWord]

/-- Decoding an encoding depends on the fields alone. -/
theorem decodeWord_encode (i : Instr) : decodeWord (encode i) = decodeFields (encodeFields i) := by simp [encode]

/-- A row's word decodes to the meaning of its 48 bits. -/
theorem decodeTableWord_48 (w : Nat) : decodeTableWord 48 w = some (decodeWord (tableWord 48 w)) := by
  have := decode_bytesOfWord (tableWord 48 w) []
  simp only [List.append_nil] at this
  simp [decodeTableWord, this]

/-- The number a word is, field by field (R70). -/
theorem wordOf_toNat (f : Fields) :
    (wordOf f).toNat = f.op.toNat * 2 ^ 40 + f.sel.toNat * 2 ^ 32 + f.a.toNat * 2 ^ 16 + f.b.toNat * 2 ^ 8 + f.c.toNat := by
  obtain ⟨op, sel, a, b, c⟩ := f
  have := op.isLt; have := sel.isLt; have := a.isLt; have := b.isLt; have := c.isLt
  simp only [wordOf, BitVec.toNat_append]
  rw [← Nat.shiftLeft_add_eq_or_of_lt (by omega), ← Nat.shiftLeft_add_eq_or_of_lt (by omega),
    ← Nat.shiftLeft_add_eq_or_of_lt (by omega), ← Nat.shiftLeft_add_eq_or_of_lt (by omega)]
  simp only [Nat.shiftLeft_eq]
  omega

/-- A reserved opcode selects `NOP` (R75). -/
theorem rowOf_reserved (f : Fields) (h : f.op ∉ usedOpcodes) : rowOf f = .nop := by
  simp only [usedOpcodes, List.mem_cons, not_or] at h
  unfold rowOf
  split <;> first
    | rfl
    | (rename_i h1
       have h2 := congrArg (BitVec.ofNat 8) h1
       simp only [BitVec.ofNat_toNat, BitVec.setWidth_eq] at h2
       simp_all)

/-- What the decoder gives is well formed (R76, R81). -/
theorem decodeFields_wellFormed (f : Fields) : (decodeFields f).wellFormed = true := by
  unfold decodeFields
  split
  · assumption
  · rfl

end Sys2Proof
end

