-- ==== Sys2Proof/Laws/State.lean ====
section
/-! SUPPORT. One lemma per field per register write (Machine/Ops.lean), all by rfl, so that no proof unfolds a record update; and the
element reads of the register files after a write. -/

namespace Sys2Proof.Machine

/-! ### `setPos` -/

@[simp] theorem State.setPos_acc (s : State) (k : Fin 4) (v : Word) : (s.setPos k v).acc = s.acc.set k { s.acc[k] with pos := v } := rfl
@[simp] theorem State.setPos_ovf (s : State) (k : Fin 4) (v : Word) : (s.setPos k v).ovf = s.ovf := rfl
@[simp] theorem State.setPos_env (s : State) (k : Fin 4) (v : Word) : (s.setPos k v).env = s.env := rfl
@[simp] theorem State.setPos_gate (s : State) (k : Fin 4) (v : Word) : (s.setPos k v).gate = s.gate := rfl
@[simp] theorem State.setPos_note (s : State) (k : Fin 4) (v : Word) : (s.setPos k v).note = s.note := rfl
@[simp] theorem State.setPos_mix (s : State) (k : Fin 4) (v : Word) : (s.setPos k v).mix = s.mix := rfl
@[simp] theorem State.setPos_pwm (s : State) (k : Fin 4) (v : Word) : (s.setPos k v).pwm = s.pwm := rfl
@[simp] theorem State.setPos_out (s : State) (k : Fin 4) (v : Word) : (s.setPos k v).out = s.out := rfl
@[simp] theorem State.setPos_events (s : State) (k : Fin 4) (v : Word) : (s.setPos k v).events = s.events := rfl
@[simp] theorem State.setPos_draws (s : State) (k : Fin 4) (v : Word) : (s.setPos k v).draws = s.draws := rfl

/-! ### `setInc` -/

@[simp] theorem State.setInc_acc (s : State) (k : Fin 4) (v : Word) : (s.setInc k v).acc = s.acc.set k { s.acc[k] with inc := v } := rfl
@[simp] theorem State.setInc_ovf (s : State) (k : Fin 4) (v : Word) : (s.setInc k v).ovf = s.ovf := rfl
@[simp] theorem State.setInc_env (s : State) (k : Fin 4) (v : Word) : (s.setInc k v).env = s.env := rfl
@[simp] theorem State.setInc_gate (s : State) (k : Fin 4) (v : Word) : (s.setInc k v).gate = s.gate := rfl
@[simp] theorem State.setInc_note (s : State) (k : Fin 4) (v : Word) : (s.setInc k v).note = s.note := rfl
@[simp] theorem State.setInc_mix (s : State) (k : Fin 4) (v : Word) : (s.setInc k v).mix = s.mix := rfl
@[simp] theorem State.setInc_pwm (s : State) (k : Fin 4) (v : Word) : (s.setInc k v).pwm = s.pwm := rfl
@[simp] theorem State.setInc_out (s : State) (k : Fin 4) (v : Word) : (s.setInc k v).out = s.out := rfl
@[simp] theorem State.setInc_events (s : State) (k : Fin 4) (v : Word) : (s.setInc k v).events = s.events := rfl
@[simp] theorem State.setInc_draws (s : State) (k : Fin 4) (v : Word) : (s.setInc k v).draws = s.draws := rfl

/-! ### `setOvf` -/

@[simp] theorem State.setOvf_acc (s : State) (k : Fin 4) (b : Bool) : (s.setOvf k b).acc = s.acc := rfl
@[simp] theorem State.setOvf_ovf (s : State) (k : Fin 4) (b : Bool) : (s.setOvf k b).ovf = s.ovf.set k b := rfl
@[simp] theorem State.setOvf_env (s : State) (k : Fin 4) (b : Bool) : (s.setOvf k b).env = s.env := rfl
@[simp] theorem State.setOvf_gate (s : State) (k : Fin 4) (b : Bool) : (s.setOvf k b).gate = s.gate := rfl
@[simp] theorem State.setOvf_note (s : State) (k : Fin 4) (b : Bool) : (s.setOvf k b).note = s.note := rfl
@[simp] theorem State.setOvf_mix (s : State) (k : Fin 4) (b : Bool) : (s.setOvf k b).mix = s.mix := rfl
@[simp] theorem State.setOvf_pwm (s : State) (k : Fin 4) (b : Bool) : (s.setOvf k b).pwm = s.pwm := rfl
@[simp] theorem State.setOvf_out (s : State) (k : Fin 4) (b : Bool) : (s.setOvf k b).out = s.out := rfl
@[simp] theorem State.setOvf_events (s : State) (k : Fin 4) (b : Bool) : (s.setOvf k b).events = s.events := rfl
@[simp] theorem State.setOvf_draws (s : State) (k : Fin 4) (b : Bool) : (s.setOvf k b).draws = s.draws := rfl

/-! ### `setEnv` -/

@[simp] theorem State.setEnv_acc (s : State) (e : Fin 3) (v : Envelope) : (s.setEnv e v).acc = s.acc := rfl
@[simp] theorem State.setEnv_ovf (s : State) (e : Fin 3) (v : Envelope) : (s.setEnv e v).ovf = s.ovf := rfl
@[simp] theorem State.setEnv_env (s : State) (e : Fin 3) (v : Envelope) : (s.setEnv e v).env = s.env.set e v := rfl
@[simp] theorem State.setEnv_gate (s : State) (e : Fin 3) (v : Envelope) : (s.setEnv e v).gate = s.gate := rfl
@[simp] theorem State.setEnv_note (s : State) (e : Fin 3) (v : Envelope) : (s.setEnv e v).note = s.note := rfl
@[simp] theorem State.setEnv_mix (s : State) (e : Fin 3) (v : Envelope) : (s.setEnv e v).mix = s.mix := rfl
@[simp] theorem State.setEnv_pwm (s : State) (e : Fin 3) (v : Envelope) : (s.setEnv e v).pwm = s.pwm := rfl
@[simp] theorem State.setEnv_out (s : State) (e : Fin 3) (v : Envelope) : (s.setEnv e v).out = s.out := rfl
@[simp] theorem State.setEnv_events (s : State) (e : Fin 3) (v : Envelope) : (s.setEnv e v).events = s.events := rfl
@[simp] theorem State.setEnv_draws (s : State) (e : Fin 3) (v : Envelope) : (s.setEnv e v).draws = s.draws := rfl

/-! ### `setGate` -/

@[simp] theorem State.setGate_acc (s : State) (g : Gate) : (s.setGate g).acc = s.acc := rfl
@[simp] theorem State.setGate_ovf (s : State) (g : Gate) : (s.setGate g).ovf = s.ovf := rfl
@[simp] theorem State.setGate_env (s : State) (g : Gate) : (s.setGate g).env = s.env := rfl
@[simp] theorem State.setGate_gate (s : State) (g : Gate) : (s.setGate g).gate = g := rfl
@[simp] theorem State.setGate_note (s : State) (g : Gate) : (s.setGate g).note = s.note := rfl
@[simp] theorem State.setGate_mix (s : State) (g : Gate) : (s.setGate g).mix = s.mix := rfl
@[simp] theorem State.setGate_pwm (s : State) (g : Gate) : (s.setGate g).pwm = s.pwm := rfl
@[simp] theorem State.setGate_out (s : State) (g : Gate) : (s.setGate g).out = s.out := rfl
@[simp] theorem State.setGate_events (s : State) (g : Gate) : (s.setGate g).events = s.events := rfl
@[simp] theorem State.setGate_draws (s : State) (g : Gate) : (s.setGate g).draws = s.draws := rfl

/-! ### `setNote` -/

@[simp] theorem State.setNote_acc (s : State) (n : Note) : (s.setNote n).acc = s.acc := rfl
@[simp] theorem State.setNote_ovf (s : State) (n : Note) : (s.setNote n).ovf = s.ovf := rfl
@[simp] theorem State.setNote_env (s : State) (n : Note) : (s.setNote n).env = s.env := rfl
@[simp] theorem State.setNote_gate (s : State) (n : Note) : (s.setNote n).gate = s.gate := rfl
@[simp] theorem State.setNote_note (s : State) (n : Note) : (s.setNote n).note = n := rfl
@[simp] theorem State.setNote_mix (s : State) (n : Note) : (s.setNote n).mix = s.mix := rfl
@[simp] theorem State.setNote_pwm (s : State) (n : Note) : (s.setNote n).pwm = s.pwm := rfl
@[simp] theorem State.setNote_out (s : State) (n : Note) : (s.setNote n).out = s.out := rfl
@[simp] theorem State.setNote_events (s : State) (n : Note) : (s.setNote n).events = s.events := rfl
@[simp] theorem State.setNote_draws (s : State) (n : Note) : (s.setNote n).draws = s.draws := rfl

/-! ### `setMix` -/

@[simp] theorem State.setMix_acc (s : State) (m : Word) : (s.setMix m).acc = s.acc := rfl
@[simp] theorem State.setMix_ovf (s : State) (m : Word) : (s.setMix m).ovf = s.ovf := rfl
@[simp] theorem State.setMix_env (s : State) (m : Word) : (s.setMix m).env = s.env := rfl
@[simp] theorem State.setMix_gate (s : State) (m : Word) : (s.setMix m).gate = s.gate := rfl
@[simp] theorem State.setMix_note (s : State) (m : Word) : (s.setMix m).note = s.note := rfl
@[simp] theorem State.setMix_mix (s : State) (m : Word) : (s.setMix m).mix = m := rfl
@[simp] theorem State.setMix_pwm (s : State) (m : Word) : (s.setMix m).pwm = s.pwm := rfl
@[simp] theorem State.setMix_out (s : State) (m : Word) : (s.setMix m).out = s.out := rfl
@[simp] theorem State.setMix_events (s : State) (m : Word) : (s.setMix m).events = s.events := rfl
@[simp] theorem State.setMix_draws (s : State) (m : Word) : (s.setMix m).draws = s.draws := rfl

/-! ### `emit` -/

@[simp] theorem State.emit_acc (s : State) (v : Byte) : (s.emit v).acc = s.acc := rfl
@[simp] theorem State.emit_ovf (s : State) (v : Byte) : (s.emit v).ovf = s.ovf := rfl
@[simp] theorem State.emit_env (s : State) (v : Byte) : (s.emit v).env = s.env := rfl
@[simp] theorem State.emit_gate (s : State) (v : Byte) : (s.emit v).gate = s.gate := rfl
@[simp] theorem State.emit_note (s : State) (v : Byte) : (s.emit v).note = s.note := rfl
@[simp] theorem State.emit_mix (s : State) (v : Byte) : (s.emit v).mix = s.mix := rfl
@[simp] theorem State.emit_pwm (s : State) (v : Byte) : (s.emit v).pwm = v := rfl
@[simp] theorem State.emit_out (s : State) (v : Byte) : (s.emit v).out = s.out ++ [v] := rfl
@[simp] theorem State.emit_events (s : State) (v : Byte) : (s.emit v).events = s.events := rfl
@[simp] theorem State.emit_draws (s : State) (v : Byte) : (s.emit v).draws = s.draws := rfl

/-! ### `draw` -/

@[simp] theorem State.draw_acc (s : State) : (s.draw).acc = s.acc := rfl
@[simp] theorem State.draw_ovf (s : State) : (s.draw).ovf = s.ovf := rfl
@[simp] theorem State.draw_env (s : State) : (s.draw).env = s.env := rfl
@[simp] theorem State.draw_gate (s : State) : (s.draw).gate = s.gate := rfl
@[simp] theorem State.draw_note (s : State) : (s.draw).note = s.note := rfl
@[simp] theorem State.draw_mix (s : State) : (s.draw).mix = s.mix := rfl
@[simp] theorem State.draw_pwm (s : State) : (s.draw).pwm = s.pwm := rfl
@[simp] theorem State.draw_out (s : State) : (s.draw).out = s.out := rfl
@[simp] theorem State.draw_events (s : State) : (s.draw).events = s.events := rfl
@[simp] theorem State.draw_draws (s : State) : (s.draw).draws = s.draws + 1 := rfl

/-! ### Reads of the register files after a write -/

theorem State.setPos_get (s : State) (k j : Fin 4) (v : Word) :
    (s.setPos k v).acc[j] = if j = k then { s.acc[k] with pos := v } else s.acc[j] := by
  by_cases h : j = k
  · subst h; simp
  · have : k.val ≠ j.val := fun e => h (Fin.ext e.symm)
    simp [h, this]

theorem State.setInc_get (s : State) (k j : Fin 4) (v : Word) :
    (s.setInc k v).acc[j] = if j = k then { s.acc[k] with inc := v } else s.acc[j] := by
  by_cases h : j = k
  · subst h; simp
  · have : k.val ≠ j.val := fun e => h (Fin.ext e.symm)
    simp [h, this]

theorem State.setOvf_get (s : State) (k j : Fin 4) (b : Bool) :
    (s.setOvf k b).ovf[j] = if j = k then b else s.ovf[j] := by
  by_cases h : j = k
  · subst h; simp
  · have : k.val ≠ j.val := fun e => h (Fin.ext e.symm)
    simp [h, this]

theorem State.setEnv_get (s : State) (e j : Fin 3) (v : Envelope) :
    (s.setEnv e v).env[j] = if j = e then v else s.env[j] := by
  by_cases h : j = e
  · subst h; simp
  · have : e.val ≠ j.val := fun e => h (Fin.ext e.symm)
    simp [h, this]

/-- Two states are equal when all their fields are. -/
@[ext] theorem State.ext' {s t : State} (acc : s.acc = t.acc) (ovf : s.ovf = t.ovf) (env : s.env = t.env) (gate : s.gate = t.gate)
    (note : s.note = t.note) (mix : s.mix = t.mix) (pwm : s.pwm = t.pwm) (out : s.out = t.out) (events : s.events = t.events)
    (draws : s.draws = t.draws) : s = t := by
  cases s; cases t; simp_all

end Sys2Proof.Machine
end

