-- ==== Sys2Proof/Laws/Ops.lean ====
section
/-! SUPPORT. The spec lemmas of the shared operations (Machine/Operands.lean, Flags.lean, Ops.lean): what each one changes, what it
leaves, and the arithmetic laws of the accumulator, the envelope and the sample. Later proofs cite these and unfold nothing. -/

namespace Sys2Proof.Machine

/-! ### Selectors (R74, R76) -/

@[simp] theorem accOf_ofNat : ∀ k : Fin 4, accOf (BitVec.ofNat 8 k.val) = some k := by decide

@[simp] theorem envOf_ofNat : ∀ e : Fin 3, envOf (BitVec.ofNat 8 e.val) = some e := by decide

@[simp] theorem grainOf_ofNat : ∀ g : Fin 2, grainOf (BitVec.ofNat 8 g.val) = some g := by decide

theorem accOf_eq_none_iff (sel : Byte) : accOf sel = none ↔ isAccSel sel = false := by
  unfold accOf isAccSel; split <;> simp_all

theorem envOf_eq_none_iff (sel : Byte) : envOf sel = none ↔ isEnvSel sel = false := by
  unfold envOf isEnvSel; split <;> simp_all

theorem grainOf_eq_none_iff (sel : Byte) : grainOf sel = none ↔ isGrainSel sel = false := by
  unfold grainOf isGrainSel; split <;> simp_all

theorem onAcc_some {sel : Byte} {k : Fin 4} (h : accOf sel = some k) (f : Fin 4 → State → State) (s : State) :
    onAcc sel f s = f k s := by simp [onAcc, h]

theorem onEnv_some {sel : Byte} {e : Fin 3} (h : envOf sel = some e) (f : Fin 3 → State → State) (s : State) :
    onEnv sel f s = f e s := by simp [onEnv, h]

theorem onGrain_some {sel : Byte} {g : Fin 2} (h : grainOf sel = some g) (f : Fin 2 → State → State) (s : State) :
    onGrain sel f s = f g s := by simp [onGrain, h]

theorem onAcc_reserved {sel : Byte} (h : isAccSel sel = false) (f : Fin 4 → State → State) (s : State) : onAcc sel f s = s := by
  simp [onAcc, (accOf_eq_none_iff sel).2 h]

theorem onEnv_reserved {sel : Byte} (h : isEnvSel sel = false) (f : Fin 3 → State → State) (s : State) : onEnv sel f s = s := by
  simp [onEnv, (envOf_eq_none_iff sel).2 h]

theorem onGrain_reserved {sel : Byte} (h : isGrainSel sel = false) (f : Fin 2 → State → State) (s : State) :
    onGrain sel f s = s := by
  simp [onGrain, (grainOf_eq_none_iff sel).2 h]

/-- What an accumulator event can do: it is the operation on the accumulator its selector names, or nothing. -/
theorem onAcc_cases (sel : Byte) (f : Fin 4 → State → State) (s : State) :
    (∃ k, accOf sel = some k ∧ onAcc sel f s = f k s) ∨ (isAccSel sel = false ∧ onAcc sel f s = s) := by
  cases h : accOf sel with
  | some k => exact .inl ⟨k, rfl, onAcc_some h f s⟩
  | none => exact .inr ⟨(accOf_eq_none_iff sel).1 h, onAcc_reserved ((accOf_eq_none_iff sel).1 h) f s⟩

/-- What an envelope event can do: it is the operation on the envelope its selector names, or nothing. -/
theorem onEnv_cases (sel : Byte) (f : Fin 3 → State → State) (s : State) :
    (∃ e, envOf sel = some e ∧ onEnv sel f s = f e s) ∨ (isEnvSel sel = false ∧ onEnv sel f s = s) := by
  cases h : envOf sel with
  | some e => exact .inl ⟨e, rfl, onEnv_some h f s⟩
  | none => exact .inr ⟨(envOf_eq_none_iff sel).1 h, onEnv_reserved ((envOf_eq_none_iff sel).1 h) f s⟩

/-- What a grain event can do: it is the operation on the grain its selector names, or nothing. -/
theorem onGrain_cases (sel : Byte) (f : Fin 2 → State → State) (s : State) :
    (∃ g, grainOf sel = some g ∧ onGrain sel f s = f g s) ∨ (isGrainSel sel = false ∧ onGrain sel f s = s) := by
  cases h : grainOf sel with
  | some g => exact .inl ⟨g, rfl, onGrain_some h f s⟩
  | none => exact .inr ⟨(grainOf_eq_none_iff sel).1 h, onGrain_reserved ((grainOf_eq_none_iff sel).1 h) f s⟩

/-- An accumulator event keeps a property its operation keeps. -/
theorem onAcc_keeps {P : State → Prop} {sel : Byte} {f : Fin 4 → State → State} {s : State} (h : P s) (hf : ∀ k, P (f k s)) :
    P (onAcc sel f s) := by
  rcases onAcc_cases sel f s with ⟨k, _, e⟩ | ⟨_, e⟩ <;> rw [e]
  · exact hf k
  · exact h

/-- An envelope event keeps a property its operation keeps. -/
theorem onEnv_keeps {P : State → Prop} {sel : Byte} {f : Fin 3 → State → State} {s : State} (h : P s) (hf : ∀ e, P (f e s)) :
    P (onEnv sel f s) := by
  rcases onEnv_cases sel f s with ⟨k, _, e⟩ | ⟨_, e⟩ <;> rw [e]
  · exact hf k
  · exact h

/-- A grain event keeps a property its operation keeps. -/
theorem onGrain_keeps {P : State → Prop} {sel : Byte} {f : Fin 2 → State → State} {s : State} (h : P s) (hf : ∀ g, P (f g s)) :
    P (onGrain sel f s) := by
  rcases onGrain_cases sel f s with ⟨k, _, e⟩ | ⟨_, e⟩ <;> rw [e]
  · exact hf k
  · exact h

/-- The accumulator a legal selector names is the one with its number (R74). -/
theorem accOf_val {sel : Byte} {k : Fin 4} (h : accOf sel = some k) : sel.toNat = k.val := by
  unfold accOf at h; split at h <;> cases h; rfl

/-- The envelope a legal selector names is the one with its number (R74). -/
theorem envOf_val {sel : Byte} {e : Fin 3} (h : envOf sel = some e) : sel.toNat = e.val := by
  unfold envOf at h; split at h <;> cases h; rfl

/-- The grain a legal selector names is the one with its number (R74). -/
theorem grainOf_val {sel : Byte} {g : Fin 2} (h : grainOf sel = some g) : sel.toNat = g.val := by
  unfold grainOf at h; split at h <;> cases h; rfl

@[simp] theorem grainAcc_zero : grainAcc 0 = 2 := rfl
@[simp] theorem grainAcc_one : grainAcc 1 = 3 := rfl
@[simp] theorem grainEnv_zero : grainEnv 0 = 1 := rfl
@[simp] theorem grainEnv_one : grainEnv 1 = 2 := rfl
@[simp] theorem syncAcc_zero : syncAcc 0 = 0 := rfl
@[simp] theorem syncAcc_one : syncAcc 1 = 1 := rfl

/-! ### The phase accumulator -/

/-- The overflow law (R91): an advance wraps exactly when the true sum does not fit in 16 bits. -/
theorem wrapped_add_iff (x y : Word) : wrapped x (x + y) = true ↔ 65536 ≤ x.toNat + y.toNat := by
  have := x.isLt; have := y.isLt
  simp only [wrapped, decide_eq_true_eq, BitVec.toNat_add]
  omega

/-! `advance`: position and overflow flag of one accumulator (R90) -/

@[simp] theorem advance_acc (k : Fin 4) (s : State) :
    (advance k s).acc = s.acc.set k ⟨s.acc[k].pos + s.acc[k].inc, s.acc[k].inc⟩ := by rfl
@[simp] theorem advance_ovf (k : Fin 4) (s : State) :
    (advance k s).ovf = s.ovf.set k (wrapped s.acc[k].pos (s.acc[k].pos + s.acc[k].inc)) := by rfl
@[simp] theorem advance_env (k : Fin 4) (s : State) : (advance k s).env = s.env := by rfl
@[simp] theorem advance_gate (k : Fin 4) (s : State) : (advance k s).gate = s.gate := by rfl
@[simp] theorem advance_note (k : Fin 4) (s : State) : (advance k s).note = s.note := by rfl
@[simp] theorem advance_mix (k : Fin 4) (s : State) : (advance k s).mix = s.mix := by rfl
@[simp] theorem advance_pwm (k : Fin 4) (s : State) : (advance k s).pwm = s.pwm := by rfl
@[simp] theorem advance_out (k : Fin 4) (s : State) : (advance k s).out = s.out := by rfl
@[simp] theorem advance_events (k : Fin 4) (s : State) : (advance k s).events = s.events := by rfl
@[simp] theorem advance_draws (k : Fin 4) (s : State) : (advance k s).draws = s.draws := by rfl

/-! `modulate`: position of one accumulator (R93) -/

@[simp] theorem modulate_acc (k : Fin 4) (d : Word) (s : State) :
    (modulate k d s).acc = s.acc.set k ⟨s.acc[k].pos + d, s.acc[k].inc⟩ := by rfl
@[simp] theorem modulate_ovf (k : Fin 4) (d : Word) (s : State) : (modulate k d s).ovf = s.ovf := by rfl
@[simp] theorem modulate_env (k : Fin 4) (d : Word) (s : State) : (modulate k d s).env = s.env := by rfl
@[simp] theorem modulate_gate (k : Fin 4) (d : Word) (s : State) : (modulate k d s).gate = s.gate := by rfl
@[simp] theorem modulate_note (k : Fin 4) (d : Word) (s : State) : (modulate k d s).note = s.note := by rfl
@[simp] theorem modulate_mix (k : Fin 4) (d : Word) (s : State) : (modulate k d s).mix = s.mix := by rfl
@[simp] theorem modulate_pwm (k : Fin 4) (d : Word) (s : State) : (modulate k d s).pwm = s.pwm := by rfl
@[simp] theorem modulate_out (k : Fin 4) (d : Word) (s : State) : (modulate k d s).out = s.out := by rfl
@[simp] theorem modulate_events (k : Fin 4) (d : Word) (s : State) : (modulate k d s).events = s.events := by rfl
@[simp] theorem modulate_draws (k : Fin 4) (d : Word) (s : State) : (modulate k d s).draws = s.draws := by rfl

/-! `setIncLookup`: increment of one accumulator, with a free value outside the range (R178) -/

/-- Everything a table-driven increment can do. -/
theorem setIncLookup_cases (k : Fin 4) (l : Option Word) (s : State) :
    (∃ v, l = some v ∧ setIncLookup k l s = s.setInc k v) ∨
    (l = none ∧ setIncLookup k l s = (s.setInc k (Config.any16 s.draws)).draw) := by
  cases l with
  | some v => exact .inl ⟨v, rfl, rfl⟩
  | none => exact .inr ⟨rfl, rfl⟩

@[simp] theorem setIncLookup_some (k : Fin 4) (v : Word) (s : State) : setIncLookup k (some v) s = s.setInc k v := rfl

@[simp] theorem setIncLookup_ovf (k : Fin 4) (l : Option Word) (s : State) : (setIncLookup k l s).ovf = s.ovf := by cases l <;> rfl
@[simp] theorem setIncLookup_env (k : Fin 4) (l : Option Word) (s : State) : (setIncLookup k l s).env = s.env := by cases l <;> rfl
@[simp] theorem setIncLookup_gate (k : Fin 4) (l : Option Word) (s : State) : (setIncLookup k l s).gate = s.gate := by cases l <;> rfl
@[simp] theorem setIncLookup_note (k : Fin 4) (l : Option Word) (s : State) : (setIncLookup k l s).note = s.note := by cases l <;> rfl
@[simp] theorem setIncLookup_mix (k : Fin 4) (l : Option Word) (s : State) : (setIncLookup k l s).mix = s.mix := by cases l <;> rfl
@[simp] theorem setIncLookup_pwm (k : Fin 4) (l : Option Word) (s : State) : (setIncLookup k l s).pwm = s.pwm := by cases l <;> rfl
@[simp] theorem setIncLookup_out (k : Fin 4) (l : Option Word) (s : State) : (setIncLookup k l s).out = s.out := by cases l <;> rfl
@[simp] theorem setIncLookup_events (k : Fin 4) (l : Option Word) (s : State) : (setIncLookup k l s).events = s.events := by cases l <;> rfl

/-- The increment after it: the lookup's value, or the next free value. -/
theorem setIncLookup_acc_eq (k : Fin 4) (l : Option Word) (s : State) :
    (setIncLookup k l s).acc = s.acc.set k ⟨s.acc[k].pos, l.getD (Config.any16 s.draws)⟩ := by cases l <;> rfl

/-- A lookup outside its range, and only that, draws a free value. -/
theorem setIncLookup_draws (k : Fin 4) (l : Option Word) (s : State) :
    (setIncLookup k l s).draws = s.draws + l.isNone.toNat := by cases l <;> rfl

/-- Whatever the lookup gives, some value is the new increment and nothing else of the accumulators changes. -/
theorem setIncLookup_acc (k : Fin 4) (l : Option Word) (s : State) :
    ∃ v, (setIncLookup k l s).acc = s.acc.set k ⟨s.acc[k].pos, v⟩ ∧ ∀ w, l = some w → v = w := by
  cases l with
  | some v => exact ⟨v, rfl, fun w h => Option.some.inj h⟩
  | none => exact ⟨_, rfl, fun w h => by cases h⟩

/-! ### The envelope -/

/-- The decrement never exceeds the amplitude, so the floor never engages (R117). -/
theorem decrement_le (amp : Word) (dec : Byte) : (decrement amp dec).toNat ≤ amp.toNat := by
  unfold decrement
  split
  · simp
  · rw [BitVec.toNat_ushiftRight, Nat.shiftRight_eq_div_pow]; exact Nat.div_le_self _ _

/-- A decay step as a number (R110). -/
theorem decayed_toNat (amp : Word) (dec : Byte) : (decayed amp dec).toNat = amp.toNat - (decrement amp dec).toNat := by
  have := amp.isLt
  simp only [decayed, BitVec.toNat_ofNat]
  exact Nat.mod_eq_of_lt (by omega)

/-- Non-increase (R116). -/
theorem decayed_le (amp : Word) (dec : Byte) : (decayed amp dec).toNat ≤ amp.toNat := by
  rw [decayed_toNat]; omega

/-- What one `EnvTick` does to an envelope (R110): a decay step with the counter cleared, or the counter alone. -/
theorem Envelope.tick_cases (v : Envelope) :
    (v.div.toNat ≤ (v.cnt + 1).toNat ∧ v.tick = ⟨decayed v.amp v.dec, v.dec, v.div, 0⟩) ∨
    ((v.cnt + 1).toNat < v.div.toNat ∧ v.tick = ⟨v.amp, v.dec, v.div, v.cnt + 1⟩) := by
  unfold Envelope.tick dividerReached
  by_cases h : v.div.toNat ≤ (v.cnt + 1).toNat
  · exact .inl ⟨h, by simp only [h, decide_true, if_true]⟩
  · exact .inr ⟨by omega, by simp only [h, decide_false, Bool.false_eq_true, if_false]⟩

@[simp] theorem Envelope.tick_dec (v : Envelope) : v.tick.dec = v.dec := by
  rcases v.tick_cases with ⟨_, h⟩ | ⟨_, h⟩ <;> rw [h]

@[simp] theorem Envelope.tick_div (v : Envelope) : v.tick.div = v.div := by
  rcases v.tick_cases with ⟨_, h⟩ | ⟨_, h⟩ <;> rw [h]

theorem Envelope.tick_amp_le (v : Envelope) : v.tick.amp.toNat ≤ v.amp.toNat := by
  rcases v.tick_cases with ⟨_, h⟩ | ⟨_, h⟩ <;> rw [h]
  exact decayed_le _ _

/-- The counter after a tick is below the divider, or 0 (R121). -/
theorem Envelope.tick_cnt_lt (v : Envelope) : v.tick.cnt.toNat < max 1 v.div.toNat := by
  rcases v.tick_cases with ⟨_, h⟩ | ⟨h1, h⟩ <;> rw [h]
  · simp
  · exact Nat.lt_of_lt_of_le h1 (Nat.le_max_right _ _)

/-! `envTick`: one envelope (R110) -/

@[simp] theorem envTick_acc (e : Fin 3) (s : State) : (envTick e s).acc = s.acc := by rfl
@[simp] theorem envTick_ovf (e : Fin 3) (s : State) : (envTick e s).ovf = s.ovf := by rfl
@[simp] theorem envTick_env (e : Fin 3) (s : State) :
    (envTick e s).env = s.env.set e s.env[e].tick := by rfl
@[simp] theorem envTick_gate (e : Fin 3) (s : State) : (envTick e s).gate = s.gate := by rfl
@[simp] theorem envTick_note (e : Fin 3) (s : State) : (envTick e s).note = s.note := by rfl
@[simp] theorem envTick_mix (e : Fin 3) (s : State) : (envTick e s).mix = s.mix := by rfl
@[simp] theorem envTick_pwm (e : Fin 3) (s : State) : (envTick e s).pwm = s.pwm := by rfl
@[simp] theorem envTick_out (e : Fin 3) (s : State) : (envTick e s).out = s.out := by rfl
@[simp] theorem envTick_events (e : Fin 3) (s : State) : (envTick e s).events = s.events := by rfl
@[simp] theorem envTick_draws (e : Fin 3) (s : State) : (envTick e s).draws = s.draws := by rfl

/-! `envReset`: one envelope, all four fields (R111) -/

@[simp] theorem envReset_acc (e : Fin 3) (a : Word) (d v : Byte) (s : State) : (envReset e a d v s).acc = s.acc := by rfl
@[simp] theorem envReset_ovf (e : Fin 3) (a : Word) (d v : Byte) (s : State) : (envReset e a d v s).ovf = s.ovf := by rfl
@[simp] theorem envReset_env (e : Fin 3) (a : Word) (d v : Byte) (s : State) :
    (envReset e a d v s).env = s.env.set e ⟨a, d, v, 0⟩ := by rfl
@[simp] theorem envReset_gate (e : Fin 3) (a : Word) (d v : Byte) (s : State) : (envReset e a d v s).gate = s.gate := by rfl
@[simp] theorem envReset_note (e : Fin 3) (a : Word) (d v : Byte) (s : State) : (envReset e a d v s).note = s.note := by rfl
@[simp] theorem envReset_mix (e : Fin 3) (a : Word) (d v : Byte) (s : State) : (envReset e a d v s).mix = s.mix := by rfl
@[simp] theorem envReset_pwm (e : Fin 3) (a : Word) (d v : Byte) (s : State) : (envReset e a d v s).pwm = s.pwm := by rfl
@[simp] theorem envReset_out (e : Fin 3) (a : Word) (d v : Byte) (s : State) : (envReset e a d v s).out = s.out := by rfl
@[simp] theorem envReset_events (e : Fin 3) (a : Word) (d v : Byte) (s : State) : (envReset e a d v s).events = s.events := by rfl
@[simp] theorem envReset_draws (e : Fin 3) (a : Word) (d v : Byte) (s : State) : (envReset e a d v s).draws = s.draws := by rfl

/-! `setDecay`: decay parameters of one envelope (R114) -/

@[simp] theorem setDecay_acc (e : Fin 3) (d v : Byte) (s : State) : (setDecay e d v s).acc = s.acc := by rfl
@[simp] theorem setDecay_ovf (e : Fin 3) (d v : Byte) (s : State) : (setDecay e d v s).ovf = s.ovf := by rfl
@[simp] theorem setDecay_env (e : Fin 3) (d v : Byte) (s : State) :
    (setDecay e d v s).env = s.env.set e ⟨s.env[e].amp, d, v, s.env[e].cnt⟩ := by rfl
@[simp] theorem setDecay_gate (e : Fin 3) (d v : Byte) (s : State) : (setDecay e d v s).gate = s.gate := by rfl
@[simp] theorem setDecay_note (e : Fin 3) (d v : Byte) (s : State) : (setDecay e d v s).note = s.note := by rfl
@[simp] theorem setDecay_mix (e : Fin 3) (d v : Byte) (s : State) : (setDecay e d v s).mix = s.mix := by rfl
@[simp] theorem setDecay_pwm (e : Fin 3) (d v : Byte) (s : State) : (setDecay e d v s).pwm = s.pwm := by rfl
@[simp] theorem setDecay_out (e : Fin 3) (d v : Byte) (s : State) : (setDecay e d v s).out = s.out := by rfl
@[simp] theorem setDecay_events (e : Fin 3) (d v : Byte) (s : State) : (setDecay e d v s).events = s.events := by rfl
@[simp] theorem setDecay_draws (e : Fin 3) (d v : Byte) (s : State) : (setDecay e d v s).draws = s.draws := by rfl

/-! ### The grain -/

/-! `grainReset`: position and envelope of one grain (R131) -/

@[simp] theorem grainReset_acc (p : Params) (g : Fin 2) (s : State) :
    (grainReset p g s).acc = s.acc.set (grainAcc g) ⟨0, s.acc[grainAcc g].inc⟩ := by rfl
@[simp] theorem grainReset_ovf (p : Params) (g : Fin 2) (s : State) : (grainReset p g s).ovf = s.ovf := by rfl
@[simp] theorem grainReset_env (p : Params) (g : Fin 2) (s : State) :
    (grainReset p g s).env = s.env.set (grainEnv g) ⟨p.grainFullScale, s.env[grainEnv g].dec, s.env[grainEnv g].div, 0⟩ := by rfl
@[simp] theorem grainReset_gate (p : Params) (g : Fin 2) (s : State) : (grainReset p g s).gate = s.gate := by rfl
@[simp] theorem grainReset_note (p : Params) (g : Fin 2) (s : State) : (grainReset p g s).note = s.note := by rfl
@[simp] theorem grainReset_mix (p : Params) (g : Fin 2) (s : State) : (grainReset p g s).mix = s.mix := by rfl
@[simp] theorem grainReset_pwm (p : Params) (g : Fin 2) (s : State) : (grainReset p g s).pwm = s.pwm := by rfl
@[simp] theorem grainReset_out (p : Params) (g : Fin 2) (s : State) : (grainReset p g s).out = s.out := by rfl
@[simp] theorem grainReset_events (p : Params) (g : Fin 2) (s : State) : (grainReset p g s).events = s.events := by rfl
@[simp] theorem grainReset_draws (p : Params) (g : Fin 2) (s : State) : (grainReset p g s).draws = s.draws := by rfl

/-- The range of a sample by the envelope's high byte, for every contents of `WAVE` (R137). -/
theorem sample_le_high (p : Params) (g : Fin 2) (s : State) :
    sample p g s ≤ 255 * (highByte s.env[grainEnv g].amp).toNat := by
  have := (p.wave (waveIndex s.acc[grainAcc g].pos)).isLt
  exact Nat.mul_le_mul_right _ (by omega)

/-- The high byte as a number (R112). -/
theorem highByte_toNat (v : Word) : (highByte v).toNat = v.toNat / 256 := by
  have := v.isLt
  simp only [highByte, BitVec.extractLsb'_toNat, Nat.shiftRight_eq_div_pow]
  omega

/-- With an amplitude of at most 0x7FFF a sample is at most 32385 (R137). -/
theorem sample_le (p : Params) (g : Fin 2) (s : State) (h : s.env[grainEnv g].amp.toNat ≤ 0x7FFF) : sample p g s ≤ 32385 := by
  have h1 := sample_le_high p g s
  rw [highByte_toNat] at h1
  omega

/-! ### The steps of TICK -/

/-- Everything one half of step 2 can do (R147). -/
theorem retrigger_cases (p : Params) (g : Fin 2) (s : State) :
    (s.ovf[syncAcc g] = true ∧ retrigger p g s = grainReset p g s) ∨ (s.ovf[syncAcc g] = false ∧ retrigger p g s = s) := by
  unfold retrigger
  cases h : s.ovf[syncAcc g] <;> simp

@[simp] theorem retrigger_ovf (p : Params) (g : Fin 2) (s : State) : (retrigger p g s).ovf = s.ovf := by
  rcases retrigger_cases p g s with ⟨_, h⟩ | ⟨_, h⟩ <;> rw [h]; rfl
@[simp] theorem retrigger_gate (p : Params) (g : Fin 2) (s : State) : (retrigger p g s).gate = s.gate := by
  rcases retrigger_cases p g s with ⟨_, h⟩ | ⟨_, h⟩ <;> rw [h]; rfl
@[simp] theorem retrigger_note (p : Params) (g : Fin 2) (s : State) : (retrigger p g s).note = s.note := by
  rcases retrigger_cases p g s with ⟨_, h⟩ | ⟨_, h⟩ <;> rw [h]; rfl
@[simp] theorem retrigger_mix (p : Params) (g : Fin 2) (s : State) : (retrigger p g s).mix = s.mix := by
  rcases retrigger_cases p g s with ⟨_, h⟩ | ⟨_, h⟩ <;> rw [h]; rfl
@[simp] theorem retrigger_pwm (p : Params) (g : Fin 2) (s : State) : (retrigger p g s).pwm = s.pwm := by
  rcases retrigger_cases p g s with ⟨_, h⟩ | ⟨_, h⟩ <;> rw [h]; rfl
@[simp] theorem retrigger_out (p : Params) (g : Fin 2) (s : State) : (retrigger p g s).out = s.out := by
  rcases retrigger_cases p g s with ⟨_, h⟩ | ⟨_, h⟩ <;> rw [h]; rfl
@[simp] theorem retrigger_events (p : Params) (g : Fin 2) (s : State) : (retrigger p g s).events = s.events := by
  rcases retrigger_cases p g s with ⟨_, h⟩ | ⟨_, h⟩ <;> rw [h]; rfl
@[simp] theorem retrigger_draws (p : Params) (g : Fin 2) (s : State) : (retrigger p g s).draws = s.draws := by
  rcases retrigger_cases p g s with ⟨_, h⟩ | ⟨_, h⟩ <;> rw [h]; rfl

/-! `tickSync`: step 1 (R146) -/

@[simp] theorem tickSync_env (s : State) : (tickSync s).env = s.env := by simp [tickSync]
@[simp] theorem tickSync_gate (s : State) : (tickSync s).gate = s.gate := by simp [tickSync]
@[simp] theorem tickSync_note (s : State) : (tickSync s).note = s.note := by simp [tickSync]
@[simp] theorem tickSync_mix (s : State) : (tickSync s).mix = s.mix := by simp [tickSync]
@[simp] theorem tickSync_pwm (s : State) : (tickSync s).pwm = s.pwm := by simp [tickSync]
@[simp] theorem tickSync_out (s : State) : (tickSync s).out = s.out := by simp [tickSync]
@[simp] theorem tickSync_events (s : State) : (tickSync s).events = s.events := by simp [tickSync]
@[simp] theorem tickSync_draws (s : State) : (tickSync s).draws = s.draws := by simp [tickSync]

/-! `tickRetrigger`: step 2 (R147) -/

@[simp] theorem tickRetrigger_ovf (p : Params) (s : State) : (tickRetrigger p s).ovf = s.ovf := by simp [tickRetrigger]
@[simp] theorem tickRetrigger_gate (p : Params) (s : State) : (tickRetrigger p s).gate = s.gate := by simp [tickRetrigger]
@[simp] theorem tickRetrigger_note (p : Params) (s : State) : (tickRetrigger p s).note = s.note := by simp [tickRetrigger]
@[simp] theorem tickRetrigger_mix (p : Params) (s : State) : (tickRetrigger p s).mix = s.mix := by simp [tickRetrigger]
@[simp] theorem tickRetrigger_pwm (p : Params) (s : State) : (tickRetrigger p s).pwm = s.pwm := by simp [tickRetrigger]
@[simp] theorem tickRetrigger_out (p : Params) (s : State) : (tickRetrigger p s).out = s.out := by simp [tickRetrigger]
@[simp] theorem tickRetrigger_events (p : Params) (s : State) : (tickRetrigger p s).events = s.events := by simp [tickRetrigger]
@[simp] theorem tickRetrigger_draws (p : Params) (s : State) : (tickRetrigger p s).draws = s.draws := by simp [tickRetrigger]

/-! `tickGrains`: step 3 (R148) -/

@[simp] theorem tickGrains_env (s : State) : (tickGrains s).env = s.env := by simp [tickGrains]
@[simp] theorem tickGrains_gate (s : State) : (tickGrains s).gate = s.gate := by simp [tickGrains]
@[simp] theorem tickGrains_note (s : State) : (tickGrains s).note = s.note := by simp [tickGrains]
@[simp] theorem tickGrains_mix (s : State) : (tickGrains s).mix = s.mix := by simp [tickGrains]
@[simp] theorem tickGrains_pwm (s : State) : (tickGrains s).pwm = s.pwm := by simp [tickGrains]
@[simp] theorem tickGrains_out (s : State) : (tickGrains s).out = s.out := by simp [tickGrains]
@[simp] theorem tickGrains_events (s : State) : (tickGrains s).events = s.events := by simp [tickGrains]
@[simp] theorem tickGrains_draws (s : State) : (tickGrains s).draws = s.draws := by simp [tickGrains]

/-! `tickMix`: step 4 (R149) -/

@[simp] theorem tickMix_acc (p : Params) (s : State) : (tickMix p s).acc = s.acc := by simp [tickMix]
@[simp] theorem tickMix_ovf (p : Params) (s : State) : (tickMix p s).ovf = s.ovf := by simp [tickMix]
@[simp] theorem tickMix_env (p : Params) (s : State) : (tickMix p s).env = s.env := by simp [tickMix]
@[simp] theorem tickMix_gate (p : Params) (s : State) : (tickMix p s).gate = s.gate := by simp [tickMix]
@[simp] theorem tickMix_note (p : Params) (s : State) : (tickMix p s).note = s.note := by simp [tickMix]
@[simp] theorem tickMix_pwm (p : Params) (s : State) : (tickMix p s).pwm = s.pwm := by simp [tickMix]
@[simp] theorem tickMix_out (p : Params) (s : State) : (tickMix p s).out = s.out := by simp [tickMix]
@[simp] theorem tickMix_events (p : Params) (s : State) : (tickMix p s).events = s.events := by simp [tickMix]
@[simp] theorem tickMix_draws (p : Params) (s : State) : (tickMix p s).draws = s.draws := by simp [tickMix]

/-! `tickEnvs`: step 5 (R150) -/

@[simp] theorem tickEnvs_acc (s : State) : (tickEnvs s).acc = s.acc := by simp [tickEnvs]
@[simp] theorem tickEnvs_ovf (s : State) : (tickEnvs s).ovf = s.ovf := by simp [tickEnvs]
@[simp] theorem tickEnvs_gate (s : State) : (tickEnvs s).gate = s.gate := by simp [tickEnvs]
@[simp] theorem tickEnvs_note (s : State) : (tickEnvs s).note = s.note := by simp [tickEnvs]
@[simp] theorem tickEnvs_mix (s : State) : (tickEnvs s).mix = s.mix := by simp [tickEnvs]
@[simp] theorem tickEnvs_pwm (s : State) : (tickEnvs s).pwm = s.pwm := by simp [tickEnvs]
@[simp] theorem tickEnvs_out (s : State) : (tickEnvs s).out = s.out := by simp [tickEnvs]
@[simp] theorem tickEnvs_events (s : State) : (tickEnvs s).events = s.events := by simp [tickEnvs]
@[simp] theorem tickEnvs_draws (s : State) : (tickEnvs s).draws = s.draws := by simp [tickEnvs]

/-! `tickMaster`: step 6 (R151) -/

@[simp] theorem tickMaster_acc (s : State) : (tickMaster s).acc = s.acc := by unfold tickMaster; split <;> rfl
@[simp] theorem tickMaster_ovf (s : State) : (tickMaster s).ovf = s.ovf := by unfold tickMaster; split <;> rfl
@[simp] theorem tickMaster_gate (s : State) : (tickMaster s).gate = s.gate := by unfold tickMaster; split <;> rfl
@[simp] theorem tickMaster_note (s : State) : (tickMaster s).note = s.note := by unfold tickMaster; split <;> rfl
@[simp] theorem tickMaster_mix (s : State) : (tickMaster s).mix = s.mix := by unfold tickMaster; split <;> rfl
@[simp] theorem tickMaster_pwm (s : State) : (tickMaster s).pwm = s.pwm := by unfold tickMaster; split <;> rfl
@[simp] theorem tickMaster_out (s : State) : (tickMaster s).out = s.out := by unfold tickMaster; split <;> rfl
@[simp] theorem tickMaster_events (s : State) : (tickMaster s).events = s.events := by unfold tickMaster; split <;> rfl
@[simp] theorem tickMaster_draws (s : State) : (tickMaster s).draws = s.draws := by unfold tickMaster; split <;> rfl

/-! `tickOut`: step 7 (R152, R153) -/

@[simp] theorem tickOut_acc (p : Params) (s : State) : (tickOut p s).acc = s.acc := by simp [tickOut]
@[simp] theorem tickOut_ovf (p : Params) (s : State) : (tickOut p s).ovf = s.ovf := by simp [tickOut]
@[simp] theorem tickOut_env (p : Params) (s : State) : (tickOut p s).env = s.env := by simp [tickOut]
@[simp] theorem tickOut_gate (p : Params) (s : State) : (tickOut p s).gate = s.gate := by simp [tickOut]
@[simp] theorem tickOut_note (p : Params) (s : State) : (tickOut p s).note = s.note := by simp [tickOut]
@[simp] theorem tickOut_mix (p : Params) (s : State) : (tickOut p s).mix = s.mix := by simp [tickOut]
@[simp] theorem tickOut_events (p : Params) (s : State) : (tickOut p s).events = s.events := by simp [tickOut]
@[simp] theorem tickOut_draws (p : Params) (s : State) : (tickOut p s).draws = s.draws := by simp [tickOut]

/-- One tick writes exactly one sample: the trace grows by the value of the output register (R153). -/
theorem tick_out (p : Params) (s : State) : (tick p s).out = s.out ++ [(tick p s).pwm] := by simp [tick, tickOut]

/-! `tick`: the fields no step writes (R145) -/

@[simp] theorem tick_gate (p : Params) (s : State) : (tick p s).gate = s.gate := by simp [tick]
@[simp] theorem tick_note (p : Params) (s : State) : (tick p s).note = s.note := by simp [tick]
@[simp] theorem tick_events (p : Params) (s : State) : (tick p s).events = s.events := by simp [tick]
@[simp] theorem tick_draws (p : Params) (s : State) : (tick p s).draws = s.draws := by simp [tick]

/-! ### The voice -/

/-- Everything a release can do (R192, R193). -/
theorem noteRelease_cases (b : Byte) (s : State) :
    (b = s.note.num ∧ noteRelease b s = s.setGate .closed) ∨ (b ≠ s.note.num ∧ noteRelease b s = s) := by
  unfold noteRelease keyHeld
  by_cases h : b = s.note.num <;> simp [h]

@[simp] theorem noteRelease_acc (b : Byte) (s : State) : (noteRelease b s).acc = s.acc := by
  rcases noteRelease_cases b s with ⟨_, h⟩ | ⟨_, h⟩ <;> rw [h]; rfl
@[simp] theorem noteRelease_ovf (b : Byte) (s : State) : (noteRelease b s).ovf = s.ovf := by
  rcases noteRelease_cases b s with ⟨_, h⟩ | ⟨_, h⟩ <;> rw [h]; rfl
@[simp] theorem noteRelease_env (b : Byte) (s : State) : (noteRelease b s).env = s.env := by
  rcases noteRelease_cases b s with ⟨_, h⟩ | ⟨_, h⟩ <;> rw [h]; rfl
@[simp] theorem noteRelease_note (b : Byte) (s : State) : (noteRelease b s).note = s.note := by
  rcases noteRelease_cases b s with ⟨_, h⟩ | ⟨_, h⟩ <;> rw [h]; rfl
@[simp] theorem noteRelease_mix (b : Byte) (s : State) : (noteRelease b s).mix = s.mix := by
  rcases noteRelease_cases b s with ⟨_, h⟩ | ⟨_, h⟩ <;> rw [h]; rfl
@[simp] theorem noteRelease_pwm (b : Byte) (s : State) : (noteRelease b s).pwm = s.pwm := by
  rcases noteRelease_cases b s with ⟨_, h⟩ | ⟨_, h⟩ <;> rw [h]; rfl
@[simp] theorem noteRelease_out (b : Byte) (s : State) : (noteRelease b s).out = s.out := by
  rcases noteRelease_cases b s with ⟨_, h⟩ | ⟨_, h⟩ <;> rw [h]; rfl
@[simp] theorem noteRelease_events (b : Byte) (s : State) : (noteRelease b s).events = s.events := by
  rcases noteRelease_cases b s with ⟨_, h⟩ | ⟨_, h⟩ <;> rw [h]; rfl
@[simp] theorem noteRelease_draws (b : Byte) (s : State) : (noteRelease b s).draws = s.draws := by
  rcases noteRelease_cases b s with ⟨_, h⟩ | ⟨_, h⟩ <;> rw [h]; rfl

@[simp] theorem pitchBend_ovf (p : Params) (a : Word) (s : State) : (pitchBend p a s).ovf = s.ovf := by simp [pitchBend]
@[simp] theorem pitchBend_env (p : Params) (a : Word) (s : State) : (pitchBend p a s).env = s.env := by simp [pitchBend]
@[simp] theorem pitchBend_gate (p : Params) (a : Word) (s : State) : (pitchBend p a s).gate = s.gate := by simp [pitchBend]
@[simp] theorem pitchBend_note (p : Params) (a : Word) (s : State) : (pitchBend p a s).note = s.note := by simp [pitchBend]
@[simp] theorem pitchBend_mix (p : Params) (a : Word) (s : State) : (pitchBend p a s).mix = s.mix := by simp [pitchBend]
@[simp] theorem pitchBend_pwm (p : Params) (a : Word) (s : State) : (pitchBend p a s).pwm = s.pwm := by simp [pitchBend]
@[simp] theorem pitchBend_out (p : Params) (a : Word) (s : State) : (pitchBend p a s).out = s.out := by simp [pitchBend]
@[simp] theorem pitchBend_events (p : Params) (a : Word) (s : State) : (pitchBend p a s).events = s.events := by simp [pitchBend]
@[simp] theorem pitchBend_draws (p : Params) (a : Word) (s : State) : (pitchBend p a s).draws = s.draws := by simp [pitchBend]

/-- The two sync increments a note-on writes (R191). -/
theorem noteStart_acc (p : Params) (b c : Byte) (s : State) :
    (noteStart p b c s).acc =
      (s.acc.set 0 ⟨s.acc[0].pos, (chromaByPitch (keyOffset b p.syncOffset0)).getD (Config.any16 s.draws)⟩).set 1
        ⟨s.acc[1].pos, (chromaByPitch (keyOffset b p.syncOffset1)).getD
          (Config.any16 (s.draws + (chromaByPitch (keyOffset b p.syncOffset0)).isNone.toNat))⟩ := by
  simp [noteStart, setIncLookup_acc_eq, setIncLookup_draws]

theorem noteStart_draws (p : Params) (b c : Byte) (s : State) :
    (noteStart p b c s).draws = s.draws + (chromaByPitch (keyOffset b p.syncOffset0)).isNone.toNat +
      (chromaByPitch (keyOffset b p.syncOffset1)).isNone.toNat := by
  simp [noteStart, setIncLookup_draws]

@[simp] theorem noteStart_ovf (p : Params) (b c : Byte) (s : State) : (noteStart p b c s).ovf = s.ovf := by simp [noteStart]
@[simp] theorem noteStart_env (p : Params) (b c : Byte) (s : State) : (noteStart p b c s).env = s.env.set 0 ⟨velocityAmp c, p.masterDecay, p.masterDivider, 0⟩ := by simp [noteStart]
@[simp] theorem noteStart_gate (p : Params) (b c : Byte) (s : State) : (noteStart p b c s).gate = .opened := by simp [noteStart]
@[simp] theorem noteStart_note (p : Params) (b c : Byte) (s : State) : (noteStart p b c s).note = ⟨b, c⟩ := by simp [noteStart]
@[simp] theorem noteStart_mix (p : Params) (b c : Byte) (s : State) : (noteStart p b c s).mix = s.mix := by simp [noteStart]
@[simp] theorem noteStart_pwm (p : Params) (b c : Byte) (s : State) : (noteStart p b c s).pwm = s.pwm := by simp [noteStart]
@[simp] theorem noteStart_out (p : Params) (b c : Byte) (s : State) : (noteStart p b c s).out = s.out := by simp [noteStart]
@[simp] theorem noteStart_events (p : Params) (b c : Byte) (s : State) : (noteStart p b c s).events = s.events := by simp [noteStart]

/-! ### The next event (R11) -/

@[simp] theorem nextEvent_nil {s : State} (h : s.events = []) : nextEvent s = none := by simp [nextEvent, h]

@[simp] theorem nextEvent_cons {s : State} {w : EventWord} {rest : List EventWord} (h : s.events = w :: rest) :
    nextEvent s = some (w, { s with events := rest }) := by simp [nextEvent, h]

@[simp] theorem nextEvent_pushEvent (w : EventWord) (s : State) : nextEvent (pushEvent w s) = some (w, s) := rfl

end Sys2Proof.Machine
end

