-- ==== Sys2Proof/Laws/Exec.lean ====
section
/-! SUPPORT. What each instruction's meaning answers, and what one step can do. -/

namespace Sys2Proof.Machine

@[simp] theorem exec_nop (s : State) :
    exec .nop s = .next s := rfl

@[simp] theorem exec_tick (s : State) :
    exec .tick s = .next (tick params s) := rfl

@[simp] theorem exec_paSetinc (sel : Byte) (a : Word) (s : State) :
    exec (.paSetinc sel a) s = .next (onAcc sel (fun k t => t.setInc k a) s) := rfl

@[simp] theorem exec_paModulate (sel : Byte) (a : Word) (s : State) :
    exec (.paModulate sel a) s = .next (onAcc sel (fun k => modulate k a) s) := rfl

@[simp] theorem exec_paAdvance (sel : Byte) (s : State) :
    exec (.paAdvance sel) s = .next (onAcc sel advance s) := rfl

@[simp] theorem exec_paSetincChroma (sel b : Byte) (s : State) :
    exec (.paSetincChroma sel b) s = .next (onAcc sel (fun k => setIncLookup k (chromaByPitch b.toNat)) s) := rfl

@[simp] theorem exec_paSetincAntilog (sel : Byte) (a : Word) (s : State) :
    exec (.paSetincAntilog sel a) s = .next (onAcc sel (fun k => setIncLookup k (antilogByControl params a.toNat)) s) := rfl

@[simp] theorem exec_paSetincChromak (sel : Byte) (a : Word) (s : State) :
    exec (.paSetincChromak sel a) s = .next (onAcc sel (fun k => setIncLookup k (chromaByControl a.toNat)) s) := rfl

@[simp] theorem exec_paSetincPenta (sel : Byte) (a : Word) (s : State) :
    exec (.paSetincPenta sel a) s = .next (onAcc sel (fun k => setIncLookup k (pentaByControl params a.toNat)) s) := rfl

@[simp] theorem exec_envReset (sel : Byte) (a : Word) (b c : Byte) (s : State) :
    exec (.envReset sel a b c) s = .next (onEnv sel (fun e => Sys2Proof.Machine.envReset e a b c) s) := rfl

@[simp] theorem exec_envSetdecay (sel b c : Byte) (s : State) :
    exec (.envSetdecay sel b c) s = .next (onEnv sel (fun e => setDecay e b c) s) := rfl

@[simp] theorem exec_envTick (sel : Byte) (s : State) :
    exec (.envTick sel) s = .next (onEnv sel Sys2Proof.Machine.envTick s) := rfl

@[simp] theorem exec_grReset (sel : Byte) (s : State) :
    exec (.grReset sel) s = .next (onGrain sel (grainReset params) s) := rfl

@[simp] theorem exec_noteOn (b c : Byte) (s : State) :
    exec (.noteOn b c) s = .next (if 0 < c.toNat then noteStart params b c s else noteRelease b s) := rfl

@[simp] theorem exec_noteOff (b : Byte) (s : State) :
    exec (.noteOff b) s = .next (noteRelease b s) := rfl

@[simp] theorem exec_pitchbend (a : Word) (s : State) :
    exec (.pitchbend a) s = .next (pitchBend params a s) := rfl

/-- A step takes the next event and executes what it decodes to (R11). -/
theorem step_cons {s : State} {w : EventWord} {rest : List EventWord} (h : s.events = w :: rest) :
    step s = exec (decodeWord w) { s with events := rest } := by
  unfold step; rw [nextEvent_cons h]

/-- With no event waiting the block holds its state (R222). -/
theorem step_nil {s : State} (h : s.events = []) : step s = .next s := by
  unfold step; rw [nextEvent_nil h]

/-- What a step can do: hold the state, or execute the next event. -/
theorem step_cases (s : State) :
    (s.events = [] ∧ step s = .next s) ∨
    ∃ w rest, s.events = w :: rest ∧ step s = exec (decodeWord w) { s with events := rest } := by
  cases h : s.events with
  | nil => exact .inl ⟨rfl, step_nil h⟩
  | cons w rest => exact .inr ⟨w, rest, rfl, step_cons h⟩

/-- The step after a row's word is put in place runs exactly that word. -/
theorem step_withFetchWord (s : State) (nbits w : Nat) :
    step (s.withFetchWord nbits w) = exec (decodeWord (tableWord nbits w)) s := rfl

theorem outcome_next_inj {s t : State} (h : (Host.Outcome.next s : Host.Outcome State Fault Refusal) = .next t) : s = t := by
  cases h; rfl

end Sys2Proof.Machine
end

