-- ==== Sys2Proof/Laws/PerInstr.lean ====
section
/-! SUPPORT. Statements made for every instruction, one lemma per constructor. -/

namespace Sys2Proof.Laws.RoundTrip

/-- Decoding the encoding of an instruction gives it back when it is well formed, and `NOP` when its selector is reserved (R73, R76). -/
def Statement (i : Instr) : Prop := decodeWord (encode i) = if i.wellFormed then i else .nop

theorem nop : Statement .nop := by rw [Statement, decodeWord_encode]; rfl

theorem tick : Statement .tick := by rw [Statement, decodeWord_encode]; rfl

theorem paSetinc (sel : Byte) (a : Word) : Statement (.paSetinc sel a) := by rw [Statement, decodeWord_encode]; rfl

theorem paModulate (sel : Byte) (a : Word) : Statement (.paModulate sel a) := by rw [Statement, decodeWord_encode]; rfl

theorem paAdvance (sel : Byte) : Statement (.paAdvance sel) := by rw [Statement, decodeWord_encode]; rfl

theorem paSetincChroma (sel b : Byte) : Statement (.paSetincChroma sel b) := by rw [Statement, decodeWord_encode]; rfl

theorem paSetincAntilog (sel : Byte) (a : Word) : Statement (.paSetincAntilog sel a) := by rw [Statement, decodeWord_encode]; rfl

theorem paSetincChromak (sel : Byte) (a : Word) : Statement (.paSetincChromak sel a) := by rw [Statement, decodeWord_encode]; rfl

theorem paSetincPenta (sel : Byte) (a : Word) : Statement (.paSetincPenta sel a) := by rw [Statement, decodeWord_encode]; rfl

theorem envReset (sel : Byte) (a : Word) (b c : Byte) : Statement (.envReset sel a b c) := by rw [Statement, decodeWord_encode]; rfl

theorem envSetdecay (sel b c : Byte) : Statement (.envSetdecay sel b c) := by rw [Statement, decodeWord_encode]; rfl

theorem envTick (sel : Byte) : Statement (.envTick sel) := by rw [Statement, decodeWord_encode]; rfl

theorem grReset (sel : Byte) : Statement (.grReset sel) := by rw [Statement, decodeWord_encode]; rfl

theorem noteOn (b c : Byte) : Statement (.noteOn b c) := by rw [Statement, decodeWord_encode]; rfl

theorem noteOff (b : Byte) : Statement (.noteOff b) := by rw [Statement, decodeWord_encode]; rfl

theorem pitchbend (a : Word) : Statement (.pitchbend a) := by rw [Statement, decodeWord_encode]; rfl

end Sys2Proof.Laws.RoundTrip
end

