-- ==== Sys2Proof/Laws/Run.lean ====
section
/-! SUPPORT. Runs of several steps, one step at a time. -/

namespace Sys2Proof.Machine

/-- No step reaches the state itself. -/
theorem runsTo_zero {s t : State} : RunsTo 0 s t ↔ s = t := by
  constructor
  · intro h; exact outcome_next_inj h
  · rintro rfl; rfl

/-- A machine's run after one step is the run from the state that step gives. -/
theorem run_succ {M : Host.Core} {n : Nat} {s u : M.State} (h : M.step s = .next u) : M.run (n + 1) s = M.run n u := by
  simp only [Host.Core.run, h]

/-- One step and then n more. -/
theorem runsTo_succ {n : Nat} {s u t : State} (h : step s = .next u) : RunsTo (n + 1) s t ↔ RunsTo n u t := by
  have e := run_succ (M := Sys2Proof.core) (n := n) (s := s) (u := u) h
  exact iff_of_eq (congrArg (· = Host.Outcome.next t) e)

end Sys2Proof.Machine
end

