-- ==== Sys2Proof/Laws/Tick.lean ====
section
/-! SUPPORT. What a whole tick leaves in each element of the register files, said once from the seven steps (43_mixer_tick.md R145 to
R153), so that no later proof unfolds them again; and the arithmetic of the waveform index and of the output stage. -/

namespace Sys2Proof.Machine

/-- The index into `WAVE` as a number: the position without its low seven bits (R133). -/
theorem waveIndex_val (pos : Word) : (waveIndex pos).val = pos.toNat / 128 := by
  have := pos.isLt
  simp only [waveIndex, BitVec.toFin_extractLsb', Fin.val_ofNat, Nat.shiftRight_eq_div_pow]
  omega

/-! ### Step 1 (R146) -/

theorem tickSync_acc (s : State) :
    (tickSync s).acc = (s.acc.set 0 ⟨s.acc[0].pos + s.acc[0].inc, s.acc[0].inc⟩).set 1 ⟨s.acc[1].pos + s.acc[1].inc, s.acc[1].inc⟩ := by
  simp [tickSync]

theorem tickSync_ovf (s : State) :
    (tickSync s).ovf = (s.ovf.set 0 (wrapped s.acc[0].pos (s.acc[0].pos + s.acc[0].inc))).set 1
      (wrapped s.acc[1].pos (s.acc[1].pos + s.acc[1].inc)) := by
  simp [tickSync]

/-! ### Step 2 (R147) -/

theorem retrigger_acc (p : Params) (g : Fin 2) (s : State) :
    (retrigger p g s).acc = if s.ovf[syncAcc g] then s.acc.set (grainAcc g) ⟨0, s.acc[grainAcc g].inc⟩ else s.acc := by
  unfold retrigger; split <;> simp

theorem retrigger_env (p : Params) (g : Fin 2) (s : State) :
    (retrigger p g s).env = if s.ovf[syncAcc g] then
      s.env.set (grainEnv g) ⟨p.grainFullScale, s.env[grainEnv g].dec, s.env[grainEnv g].div, 0⟩ else s.env := by
  unfold retrigger; split <;> simp

/-- Does the advance of sync accumulator g in the tick of this state wrap (R146)? -/
def syncWraps (g : Fin 2) (s : State) : Bool := wrapped s.acc[syncAcc g].pos (s.acc[syncAcc g].pos + s.acc[syncAcc g].inc)

theorem syncWraps_iff (g : Fin 2) (s : State) :
    syncWraps g s = true ↔ 65536 ≤ s.acc[syncAcc g].pos.toNat + s.acc[syncAcc g].inc.toNat := wrapped_add_iff _ _

/-- The position grain g's advance starts from in the tick of this state: 0 when it is retriggered (R147, R148). -/
def grainStart (g : Fin 2) (s : State) : Word := if syncWraps g s then 0 else s.acc[grainAcc g].pos

/-- Grain g's envelope before step 5 of the tick of this state: full scale when it is retriggered (R147). -/
def envelopeStart (p : Params) (g : Fin 2) (s : State) : Envelope :=
  if syncWraps g s then ⟨p.grainFullScale, s.env[grainEnv g].dec, s.env[grainEnv g].div, 0⟩ else s.env[grainEnv g]

theorem tickSync_ovf_get (g : Fin 2) (s : State) : (tickSync s).ovf[syncAcc g] = syncWraps g s := by
  rw [syncWraps]
  match g with
  | 0 => simp [tickSync]
  | 1 => simp [tickSync]

theorem tickRetrigger_acc (p : Params) (s : State) :
    (tickRetrigger p (tickSync s)).acc =
      (((s.acc.set 0 ⟨s.acc[0].pos + s.acc[0].inc, s.acc[0].inc⟩).set 1 ⟨s.acc[1].pos + s.acc[1].inc, s.acc[1].inc⟩).set 2
        ⟨grainStart 0 s, s.acc[2].inc⟩).set 3 ⟨grainStart 1 s, s.acc[3].inc⟩ := by
  simp only [tickRetrigger, retrigger_acc, retrigger_ovf, tickSync_ovf_get, tickSync_acc, grainStart]
  by_cases h0 : syncWraps 0 s = true <;> by_cases h1 : syncWraps 1 s = true <;> simp only [h0, h1, if_true] <;>
    (ext i hi; interval_cases i <;> simp)

theorem tickRetrigger_env (p : Params) (s : State) :
    (tickRetrigger p (tickSync s)).env = (s.env.set 1 (envelopeStart p 0 s)).set 2 (envelopeStart p 1 s) := by
  simp only [tickRetrigger, retrigger_env, retrigger_ovf, tickSync_ovf_get, tickSync_env, envelopeStart]
  by_cases h0 : syncWraps 0 s = true <;> by_cases h1 : syncWraps 1 s = true <;> simp only [h0, h1, if_true] <;>
    (ext i hi; interval_cases i <;> simp)

/-! ### The whole tick (R145) -/

theorem tick_acc (p : Params) (s : State) :
    (tick p s).acc =
      (((s.acc.set 0 ⟨s.acc[0].pos + s.acc[0].inc, s.acc[0].inc⟩).set 1 ⟨s.acc[1].pos + s.acc[1].inc, s.acc[1].inc⟩).set 2
        ⟨grainStart 0 s + s.acc[2].inc, s.acc[2].inc⟩).set 3 ⟨grainStart 1 s + s.acc[3].inc, s.acc[3].inc⟩ := by
  simp only [tick, tickOut_acc, tickMaster_acc, tickEnvs_acc, tickMix_acc, tickGrains, advance_acc, tickRetrigger_acc]
  ext i hi
  interval_cases i <;> simp

theorem tick_ovf (p : Params) (s : State) :
    (tick p s).ovf =
      (((s.ovf.set 0 (syncWraps 0 s)).set 1 (syncWraps 1 s)).set 2
        (wrapped (grainStart 0 s) (grainStart 0 s + s.acc[2].inc))).set 3
        (wrapped (grainStart 1 s) (grainStart 1 s + s.acc[3].inc)) := by
  simp only [tick, tickOut_ovf, tickMaster_ovf, tickEnvs_ovf, tickMix_ovf, tickGrains, advance_ovf, advance_acc, tickRetrigger_acc,
    tickRetrigger_ovf, tickSync_ovf, syncWraps]
  ext i hi
  interval_cases i <;> simp

theorem tick_env (p : Params) (s : State) :
    (tick p s).env =
      ((s.env.set 1 (envelopeStart p 0 s).tick).set 2 (envelopeStart p 1 s).tick).set 0
        (if s.gate = .closed then s.env[0].tick else s.env[0]) := by
  simp only [tick, tickOut_env, tickMaster, tickEnvs_gate, tickMix_gate, tickGrains_gate, tickRetrigger_gate, tickSync_gate]
  split <;>
    simp only [tickEnvs, envTick_env, tickMix_env, tickGrains_env, tickRetrigger_env] <;>
    (ext i hi; interval_cases i <;> simp)

theorem tick_mix (p : Params) (s : State) :
    (tick p s).mix = BitVec.ofNat 16
      ((p.wave (waveIndex (grainStart 0 s + s.acc[2].inc))).toNat * (highByte (envelopeStart p 0 s).amp).toNat +
        (p.wave (waveIndex (grainStart 1 s + s.acc[3].inc))).toNat * (highByte (envelopeStart p 1 s).amp).toNat) := by
  simp only [tick, tickOut_mix, tickMaster_mix, tickEnvs, envTick_mix, tickMix, State.setMix_mix, sample, envValueHigh,
    tickGrains, advance_acc, tickRetrigger_acc]
  simp [tickRetrigger_env]

theorem tick_pwm (p : Params) (s : State) : (tick p s).pwm = finalise p (tick p s).mix (tick p s).env[0].amp := by
  simp [tick, tickOut]

/-! ### The output stage (R152) -/

/-- The output stage with this hardware's constants, on numbers. -/
theorem finalise_params (m a : Word) :
    finalise params m a = BitVec.ofInt 8 ((((m.toNat / 256 : Nat) : Int) - 128) * ((a.toNat / 256 : Nat) : Int) / 128 + 128) := by
  simp only [finalise, params, highByte_toNat, Nat.shiftRight_eq_div_pow]
  norm_num

end Sys2Proof.Machine
end

