-- ==== Sys2Proof/Tests/Slice0.lean ====
section
/-! SUPPORT. The model's own tests. Every expected value is the spec's: the words of 30_encoding.md and the vectors of
95_test_vectors.md, whose section a test names. After them stand the witnesses: for each statement with hypotheses, a state and
operands that meet them all. -/

namespace Sys2Proof.Tests

open Sys2Proof Sys2Proof.Machine

/-! ### WellFormed refuses reserved selectors (R76) -/

theorem test_wf_reserved_accumulator : (Instr.paSetinc 4 1).wellFormed = false := by decide
theorem test_wf_reserved_accumulator_high_bits : (Instr.paAdvance 0x84).wellFormed = false := by decide
theorem test_wf_reserved_envelope : (Instr.envReset 3 0xFFFF 1 1).wellFormed = false := by decide
theorem test_wf_reserved_grain : (Instr.grReset 2).wellFormed = false := by decide
theorem test_wf_legal_bounds :
    (Instr.paSetinc 3 1).wellFormed = true ∧ (Instr.envTick 2).wellFormed = true ∧ (Instr.grReset 1).wellFormed = true := by decide

/-! ### Decoding (95 section 2.7 and the words of section 2), one word per constructor at least -/

theorem test_decode_nop : decodeWord 0x00FFFFFFFFFF = .nop := by decide
theorem test_decode_tick : decodeWord 0x01ABCDEF0123 = .tick := by decide
theorem test_decode_paSetinc : decodeWord 0x1001ABCD1234 = .paSetinc 1 0xABCD := by decide
theorem test_decode_paModulate : decodeWord 0x1101FFF50000 = .paModulate 1 0xFFF5 := by decide
theorem test_decode_paAdvance : decodeWord 0x120300000000 = .paAdvance 3 := by decide
theorem test_decode_paSetincChroma : decodeWord 0x180100007F00 = .paSetincChroma 1 127 := by decide
theorem test_decode_paSetincAntilog : decodeWord 0x190203FF0000 = .paSetincAntilog 2 1023 := by decide
theorem test_decode_paSetincChromak : decodeWord 0x1A0301D70000 = .paSetincChromak 3 471 := by decide
theorem test_decode_paSetincPenta : decodeWord 0x1B0101F40000 = .paSetincPenta 1 500 := by decide
theorem test_decode_envReset : decodeWord 0x200000640209 = .envReset 0 100 2 9 := by decide
theorem test_decode_envSetdecay : decodeWord 0x21020000FF07 = .envSetdecay 2 255 7 := by decide
theorem test_decode_envTick : decodeWord 0x220100000000 = .envTick 1 := by decide
theorem test_decode_grReset : decodeWord 0x300100000000 = .grReset 1 := by decide
theorem test_decode_noteOn : decodeWord 0x4005FFFF457F = .noteOn 69 127 := by decide
theorem test_decode_noteOff : decodeWord 0x41FFFFFF45FF = .noteOff 69 := by decide
theorem test_decode_pitchbend : decodeWord 0x42003FFF0000 = .pitchbend 16383 := by decide
theorem test_decode_reserved_opcodes :
    ([0x020000000000, 0x130000000000, 0x1C0000000000, 0x230000000000, 0x310000000000, 0x430000000000, 0xFF0000000000] :
      List EventWord).all (fun w => decodeWord w == .nop) = true := by decide
theorem test_decode_reserved_selectors :
    ([0x100400010000, 0x2003FFFF0101, 0x300200000000] : List EventWord).all (fun w => decodeWord w == .nop) = true := by decide

/-- R54: opcode, selector, `a` high, `a` low, `b`, `c` in this order. -/
theorem test_decode_bytes : decode [0x20, 0x00, 0x7F, 0x00, 0x01, 0x04, 0xAA] = .ok (.envReset 0 32512 1 4, [0xAA]) := by decide
theorem test_decode_truncated : decode [0x20, 0x00, 0x7F, 0x00, 0x01] = .error (.truncated 5) := by decide
theorem test_decodeTableWord : decodeTableWord 48 0x100003E80000 = some (.paSetinc 0 1000) := by decide

/-! ### A state built by hand, and what an event makes of it -/

/-- The state after reset with one accumulator, one envelope and the gate given. -/
def st (k : Fin 4) (a : PhaseAcc) (e : Fin 3) (v : Envelope) (g : Gate) : State :=
  { State.reset with acc := State.reset.acc.set k a, env := State.reset.env.set e v, gate := g }

/-- The state after reset with one accumulator given. -/
def stAcc (k : Fin 4) (a : PhaseAcc) : State := { State.reset with acc := State.reset.acc.set k a }

/-- The state after reset with one envelope given. -/
def stEnv (e : Fin 3) (v : Envelope) : State := { State.reset with env := State.reset.env.set e v }

/-- The next state of an instruction, none where it stops. -/
def after (i : Instr) (s : State) : Option State :=
  match exec i s with
  | .next t => some t
  | .fault _ => none
  | .refused _ => none

/-- The next state of a step, none where it stops. -/
def stepped (s : State) : Option State :=
  match step s with
  | .next t => some t
  | .fault _ => none
  | .refused _ => none

/-! Control (95 section 2.4; the example of R145) -/

theorem test_tick_from_reset : after .tick State.reset = some { State.reset with out := [128] } := by decide

/-- P2 after tick 3, from the table of 95 section 3; its tick 4 is the example of R145. -/
def p2AfterTick3 : State :=
  { acc := #v[⟨49152, 16384⟩, ⟨32768, 32768⟩, ⟨24576, 8192⟩, ⟨24576, 12288⟩], ovf := #v[false, false, false, false],
    env := #v[⟨32512, 1, 4, 0⟩, ⟨0, 4, 2, 0⟩, ⟨25088, 3, 1, 0⟩], gate := .opened, note := ⟨69, 127⟩, mix := 10752, pwm := 42,
    out := [], events := [], draws := 0 }

/-- P2 after tick 4: both grains retrigger. -/
theorem test_tick_retriggers :
    (after .tick p2AfterTick3).map (fun t => (t.acc, t.ovf, t.env, t.mix, t.out)) =
      some (#v[⟨0, 16384⟩, ⟨0, 32768⟩, ⟨8192, 8192⟩, ⟨12288, 12288⟩], #v[true, true, false, false], #v[⟨32512, 1, 4, 0⟩, ⟨32767, 4, 2, 1⟩, ⟨28672, 3, 1, 0⟩], 10160,
        [39]) := by decide

theorem test_nop : after .nop p2AfterTick3 = some p2AfterTick3 := by decide

/-- 95 section 2.4, the whole table: (mix, master amplitude, output). -/
theorem test_finalise :
    ([(0, 0, 128), (33000, 0, 128), (0, 32512, 1), (64770, 32512, 252), (64770, 32767, 252), (32768, 32512, 128), (32767, 32512, 127),
      (16256, 16256, 96), (100, 256, 127), (33000, 256, 128), (10160, 32512, 39), (0, 65535, 129), (65535, 65535, 125)] :
      List (Word × Word × Byte)).all (fun x => finalise params x.1 x.2.1 == x.2.2) = true := by decide

/-! Phase accumulator (95 section 2.1) -/

theorem test_paSetinc : after (.paSetinc 0 1000) State.reset = some (stAcc 0 ⟨0, 1000⟩) := by decide
theorem test_paSetinc_reserved : after (.paSetinc 4 1) State.reset = some State.reset := by decide
theorem test_paModulate_negative :
    (after (.paModulate 1 0xFFF5) (stAcc 1 ⟨10, 0⟩)).map (fun t => (t.acc[1].pos, t.ovf[1])) = some (65535, false) := by decide
theorem test_paModulate_wraps_silently :
    (after (.paModulate 2 1) (stAcc 2 ⟨65535, 0⟩)).map (fun t => (t.acc[2].pos, t.ovf[2])) = some (0, false) := by decide
theorem test_paAdvance_scenario_b :
    (after (.paAdvance 0) (stAcc 0 ⟨65000, 1000⟩)).map (fun t => (t.acc[0].pos, t.ovf[0])) = some (464, true) := by decide
theorem test_paAdvance_not_sticky :
    (after (.paAdvance 3) { stAcc 3 ⟨0, 5⟩ with ovf := #v[false, false, false, true] }).map (fun t => (t.acc[3].pos, t.ovf[3])) =
      some (5, false) := by decide

/-! Lookup tables (95 section 2.5) -/

theorem test_paSetincChroma : (after (.paSetincChroma 0 69) State.reset).map (·.acc[0].inc) = some 923 := by decide

/-- Outside the contract only the increment is open (R178): the position, say, is not. -/
theorem test_paSetincChroma_128 : (after (.paSetincChroma 0 128) (stAcc 0 ⟨7, 9⟩)).map (·.acc[0].pos) = some 7 := by decide
theorem test_paSetincAntilog : (after (.paSetincAntilog 2 575) State.reset).map (·.acc[2].inc) = some 128 := by decide
theorem test_paSetincAntilog_last : (after (.paSetincAntilog 2 1023) State.reset).map (·.acc[2].inc) = some 1 := by decide
theorem test_paSetincChromak : (after (.paSetincChromak 3 8) State.reset).map (·.acc[3].inc) = some 24830 := by decide
theorem test_paSetincChromak_last : (after (.paSetincChromak 3 1016) State.reset).map (·.acc[3].inc) = some 17 := by decide
theorem test_paSetincPenta : (after (.paSetincPenta 1 17) State.reset).map (·.acc[1].inc) = some 22121 := by decide
theorem test_paSetincPenta_1004 : (after (.paSetincPenta 1 1004) State.reset).map (·.acc[1].inc) = some 19 := by decide

/-! Envelope (95 section 2.2) -/

theorem test_envReset : after (.envReset 0 100 2 9) (stEnv 0 ⟨0, 0, 0, 3⟩) = some (stEnv 0 ⟨100, 2, 9, 0⟩) := by decide
theorem test_envSetdecay : after (.envSetdecay 1 4 2) (stEnv 1 ⟨5000, 2, 1, 0⟩) = some (stEnv 1 ⟨5000, 4, 2, 0⟩) := by decide
theorem test_envTick_gate_open :
    (after (.envTick 0) { stEnv 0 ⟨32512, 1, 1, 0⟩ with gate := .opened }).map (·.env[0].amp) = some 16256 := by decide

/-- The table of single ticks with the counter at 0: (amp, dec, div, amp after, cnt after). -/
theorem test_envTick_table :
    ([(32767, 1, 1, 16384, 0), (32767, 0, 1, 0, 0), (32767, 8, 1, 32640, 0), (65535, 8, 1, 65280, 0), (32767, 15, 1, 32767, 0),
      (32767, 16, 1, 32767, 0), (32767, 255, 1, 32767, 0), (3, 1, 1, 2, 0), (2, 1, 1, 1, 0), (1, 1, 1, 1, 0), (0, 1, 1, 0, 0),
      (32767, 1, 0, 16384, 0), (32767, 1, 2, 32767, 1), (32767, 1, 255, 32767, 1)] : List (Word × Byte × Byte × Word × Byte)).all
      (fun x => (Envelope.tick ⟨x.1, x.2.1, x.2.2.1, 0⟩) == ⟨x.2.2.2.1, x.2.1, x.2.2.1, x.2.2.2.2⟩) = true := by decide

/-- The counter's corner cases: reaching 255, a divider below the counter, and the wrap. -/
theorem test_envTick_counter :
    Envelope.tick ⟨100, 1, 255, 254⟩ = ⟨50, 1, 255, 0⟩ ∧ Envelope.tick ⟨100, 1, 3, 5⟩ = ⟨50, 1, 3, 0⟩ ∧
      Envelope.tick ⟨100, 1, 255, 255⟩ = ⟨100, 1, 255, 0⟩ := by decide

/-! Grain (95 section 2.3) -/

theorem test_grReset :
    after (.grReset 1) { st 3 ⟨7, 9⟩ 2 ⟨0, 200, 7, 6⟩ .closed with ovf := #v[false, false, false, true] } =
      some { st 3 ⟨0, 9⟩ 2 ⟨32767, 200, 7, 0⟩ .closed with ovf := #v[false, false, false, true] } := by decide

/-- The table of samples: (pos, amp, sample). -/
theorem test_sample :
    ([(0x0000, 0x7FFF, 0), (0x8000, 0x7FFF, 16256), (0xFFFF, 0x7FFF, 32385), (0xFF80, 0x7FFF, 32385), (0xFF7F, 0x7FFF, 32385),
      (0x1234, 0x4000, 1152), (0x0100, 0x0100, 1), (0x8000, 0x00FF, 0), (0xFFFF, 0xFFFF, 65025)] : List (Word × Word × Nat)).all
      (fun x => sample params 0 (st 2 ⟨x.1, 0⟩ 1 ⟨x.2.1, 0, 0, 0⟩ .closed) == x.2.2) = true := by decide

/-! Voice (95 section 2.6) -/

/-- E1 (scenario A). -/
theorem test_noteOn_scenario_a :
    after (.noteOn 69 127) State.reset =
      some { State.reset with
        acc := #v[⟨0, 231⟩, ⟨0, 346⟩, ⟨0, 0⟩, ⟨0, 0⟩]
        env := #v[⟨32512, 1, 4, 0⟩, ⟨0, 0, 0, 0⟩, ⟨0, 0, 0, 0⟩]
        gate := .opened
        note := ⟨69, 127⟩ } := by decide

/-- Key 20: the first sync increment is open, the second is `CHROMA[3]`. -/
theorem test_noteOn_below_the_table :
    (after (.noteOn 20 100) State.reset).map (fun t => (t.acc[1].inc, t.env[0], t.gate, t.note)) =
      some (20, ⟨25600, 1, 4, 0⟩, .opened, ⟨20, 100⟩) := by decide
theorem test_noteOff_held :
    after (.noteOff 69) { State.reset with gate := .opened, note := ⟨69, 127⟩ } = some { State.reset with note := ⟨69, 127⟩ } := by
  decide
theorem test_noteOff_other :
    after (.noteOff 68) { State.reset with gate := .opened, note := ⟨69, 127⟩ } =
      some { State.reset with gate := .opened, note := ⟨69, 127⟩ } := by decide
theorem test_pitchbend :
    (after (.pitchbend 8193) { State.reset with acc := #v[⟨5, 0⟩, ⟨65535, 0⟩, ⟨0, 0⟩, ⟨0, 0⟩] }).map
      (fun t => (t.acc[0].pos, t.acc[1].pos, t.ovf[1])) = some (6, 0, false) := by decide
theorem test_pitchbend_ignores_high_bits :
    (after (.pitchbend 0xC000) State.reset).map (fun t => (t.acc[0].pos, t.acc[1].pos)) = some (57344, 57344) := by decide

/-! The step and the read port (95 sections 2.5 and 3) -/

theorem test_step_takes_one_event :
    stepped { State.reset with events := [0x100003E80000, 0x120000000000] } =
      some { stAcc 0 ⟨0, 1000⟩ with events := [0x120000000000] } := by decide
theorem test_withFetchWord :
    stepped (State.reset.withFetchWord 48 0x1100FDE80000) = some (stAcc 0 ⟨65000, 0⟩) := by decide

/-- (address, content), in the reset state. -/
theorem test_readPort_reset :
    ([(0x100, 17), (0x145, 923), (0x17F, 26306), (0x180, 64830), (0x1BF, 32768), (0x1C0, 0), (0x1F5, 26306), (0x1F6, 0), (0x200, 0),
      (0x201, 0), (0x202, 1), (0x3FF, 255), (0x017, 0), (0x012, 0), (0x014, 0x80)] : List (BitVec 10 × Word)).all
      (fun x => readPort State.reset x.1 == x.2) = true := by decide

/-- `STATUS` at the end of P4. -/
theorem test_readPort_status : readPort { State.reset with ovf := #v[false, false, true, false] } 0x012 = 0x0008 := by decide

/-! The assembler (R79, R80) -/

theorem test_assemble_comment_and_hex :
    assemble "ENV_RESET MASTER, 0x7F00, 1, 4 ; loud\n\nGR_SETINC G1, 65535" = some [0x20007F000104, 0x1003FFFF0000] := by decide
theorem test_assemble_rejects : assemble "PA_SETINC SYNC0, -1" = none ∧ assemble "NOTE_ON 69" = none := by decide

/-! ### Witnesses: every hypothesis of a statement is met by something, at the bounds of its range -/

theorem witness_EncodedInstructionDecodesBack :
    (Instr.paSetincPenta 3 0xFFFF).wellFormed = true ∧ (Instr.envReset 2 0xFFFF 255 255).wellFormed = true ∧
      (Instr.grReset 1).wellFormed = true ∧ (Instr.noteOn 255 255).wellFormed = true := by decide

/-- The ends of the six reserved ranges, and their neighbours in use. -/
theorem witness_ReservedOpcodeActsAsNop :
    ([0x02, 0x0F, 0x13, 0x17, 0x1C, 0x1F, 0x23, 0x2F, 0x31, 0x3F, 0x43, 0xFF] : List Byte).all (fun op => !usedOpcodes.contains op) = true ∧
      ([0x01, 0x10, 0x12, 0x18, 0x1B, 0x20, 0x22, 0x30, 0x40, 0x42] : List Byte).all usedOpcodes.contains = true := by decide

theorem witness_ReservedSelectorActsAsNop :
    decodeWord (wordOf ⟨0x10, 3, 1, 0, 0⟩) = .paSetinc 3 1 ∧ decodeWord (wordOf ⟨0x10, 4, 1, 0, 0⟩) = .nop ∧
      decodeWord (wordOf ⟨0x22, 2, 1, 0, 0⟩) = .envTick 2 ∧ decodeWord (wordOf ⟨0x22, 3, 1, 0, 0⟩) = .nop ∧
      decodeWord (wordOf ⟨0x30, 1, 1, 0, 0⟩) = .grReset 1 ∧ decodeWord (wordOf ⟨0x30, 2, 1, 0, 0⟩) = .nop := by decide

theorem witness_UnusedFieldsAreIgnored :
    (0x01 : Byte) ∈ ([0x00, 0x01] : List Byte) ∧ (0x22 : Byte) ∈ ([0x12, 0x22, 0x30] : List Byte) ∧
      (0x1B : Byte) ∈ ([0x10, 0x11, 0x19, 0x1A, 0x1B] : List Byte) ∧
      (0xC000 : Word).toNat % 16384 = (0 : Word).toNat % 16384 ∧ (0xFFFF : Word).toNat % 16384 = (0x3FFF : Word).toNat % 16384 := by decide

theorem witness_StepRunsTheDecodedEvent : (Instr.envSetdecay 2 255 7).wellFormed = true := by decide

/-- A selector is reserved from 4 in the accumulator family, from 3 in the envelope family, from 2 in the grain family. -/
theorem witness_reserved_selectors :
    (4 ≤ (4 : Byte).toNat ∧ 4 ≤ (255 : Byte).toNat ∧ ¬ 4 ≤ (3 : Byte).toNat) ∧ (3 ≤ (3 : Byte).toNat ∧ ¬ 3 ≤ (2 : Byte).toNat) ∧
      (2 ≤ (2 : Byte).toNat ∧ ¬ 2 ≤ (1 : Byte).toNat) := by decide

/-- An increment of 0, and one above 0 at the last position that wraps. -/
theorem witness_OverflowReportsTheTrueSum :
    (stAcc 0 ⟨65535, 0⟩).acc[0].inc = 0 ∧ 0 < (stAcc 0 ⟨65535, 1⟩).acc[0].inc.toNat ∧
      65536 - (stAcc 0 ⟨65535, 1⟩).acc[0].inc.toNat ≤ (stAcc 0 ⟨65535, 1⟩).acc[0].pos.toNat ∧
      (after (.paAdvance 0) (stAcc 0 ⟨65535, 1⟩)).map (·.ovf[0]) = some true ∧
      (after (.paAdvance 0) (stAcc 0 ⟨65534, 1⟩)).map (·.ovf[0]) = some false := by decide

/-- `m ≤ n` with two and three ticks: the amplitude falls. -/
theorem witness_AmplitudeNeverRises :
    2 ≤ 3 ∧ ((envTick 1)^[3] (stEnv 1 ⟨32767, 1, 1, 0⟩)).env[1].amp.toNat < ((envTick 1)^[2] (stEnv 1 ⟨32767, 1, 1, 0⟩)).env[1].amp.toNat := by
  decide

/-- `dec` at 15 and 16, an amplitude at and below `2 ^ dec`, a counter at 254. -/
theorem witness_DecayFixedPoints :
    16 ≤ (16 : Byte).toNat ∧ (15 : Byte).toNat < 16 ∧ ¬ 16 ≤ (15 : Byte).toNat ∧ decayed 2 1 ≠ 2 ∧ decayed 1 1 = 1 ∧ decayed 32767 15 = 32767 ∧
      decayed 32768 15 ≠ 32768 ∧ (⟨32767, 1, 0, 254⟩ : Envelope).cnt.toNat ≤ 254 := by decide

/-- The divider lowered to the counter, and below it. -/
theorem witness_CounterStaysBelowTheDivider :
    (stEnv 0 ⟨100, 1, 255, 254⟩).env[0].cnt.toNat ≤ 254 ∧ (254 : Byte).toNat ≤ (stEnv 0 ⟨100, 1, 255, 254⟩).env[0].cnt.toNat ∧
      (stEnv 0 ⟨100, 1, 9, 5⟩).env[0].cnt.toNat ≤ 254 ∧ (3 : Byte).toNat ≤ (stEnv 0 ⟨100, 1, 9, 5⟩).env[0].cnt.toNat := by decide

/-- The two ends of the waveform index, and the two sides of the amplitude bound. -/
theorem witness_SampleIsWaveTimesEnvelope :
    (511 : Fin 512).val = (stAcc 2 ⟨0xFFFF, 0⟩).acc[2].pos.toNat / 128 ∧ (0 : Fin 512).val = (stAcc 3 ⟨127, 0⟩).acc[3].pos.toNat / 128 ∧
      (stEnv 1 ⟨0x7FFF, 0, 0, 0⟩).env[grainEnv 0].amp.toNat ≤ 0x7FFF ∧ ¬ (stEnv 1 ⟨0x8000, 0, 0, 0⟩).env[grainEnv 0].amp.toNat ≤ 0x7FFF := by
  decide

/-- Sync 0 wraps exactly, sync 1 just does not, in one state whose gate is closed; and a state whose gate is open. -/
def oneWraps : State := { State.reset with acc := #v[⟨65535, 1⟩, ⟨65534, 1⟩, ⟨40000, 3⟩, ⟨65535, 2⟩] }

theorem witness_TickRunsTheSevenSteps :
    65536 ≤ oneWraps.acc[syncAcc 0].pos.toNat + oneWraps.acc[syncAcc 0].inc.toNat ∧
      ¬ 65536 ≤ oneWraps.acc[syncAcc 1].pos.toNat + oneWraps.acc[syncAcc 1].inc.toNat ∧ oneWraps.gate = .closed ∧
      p2AfterTick3.gate = .opened ∧
      (after .tick oneWraps).map (fun t => (t.acc[2].pos, t.ovf[2], t.acc[3].pos, t.ovf[3])) = some (3, false, 1, true) := by decide

/-- The amplitudes step 4 uses in that state. -/
theorem witness_TickRunsTheSevenSteps_amplitudes :
    ∃ a : Fin 2 → Word, (∀ g, 65536 ≤ oneWraps.acc[syncAcc g].pos.toNat + oneWraps.acc[syncAcc g].inc.toNat → a g = params.grainFullScale) ∧
      (∀ g, ¬ 65536 ≤ oneWraps.acc[syncAcc g].pos.toNat + oneWraps.acc[syncAcc g].inc.toNat → a g = oneWraps.env[grainEnv g].amp) :=
  ⟨fun g => if g = 0 then 0x7FFF else 0, by decide⟩

theorem witness_GrainNeverResetsItself : oneWraps.acc[syncAcc 1].pos.toNat + oneWraps.acc[syncAcc 1].inc.toNat < 65536 := by decide

theorem witness_FinaliseCentresScalesAndReoffsets : (0x00FF : Word).toNat < 256 ∧ ¬ (0x0100 : Word).toNat < 256 := by decide

/-- The master's high byte at 127 and 128, the mix at its bound, and the two ends of the output range. -/
theorem witness_OutputRangeFollowsTheMasterByte :
    (0x80FF : Word).toNat / 256 ≤ 128 ∧ (0x7FFF : Word).toNat / 256 ≤ 127 ∧ (64770 : Word).toNat ≤ 64770 ∧
      finalise params 64770 0x7FFF = 252 ∧ finalise params 0 0x7FFF = 1 ∧ (0x00FF : Word).toNat < 256 := by decide

/-- Both grain amplitudes at their bound, and the whole tick with a full scale within it. -/
theorem witness_MixingNeverOverflowsInContract :
    ({ State.reset with env := #v[⟨0, 0, 0, 0⟩, ⟨0x7FFF, 16, 0, 0⟩, ⟨0x7FFF, 16, 0, 0⟩] } : State).env[1].amp.toNat ≤ 0x7FFF ∧
      ({ State.reset with env := #v[⟨0, 0, 0, 0⟩, ⟨0x7FFF, 16, 0, 0⟩, ⟨0x7FFF, 16, 0, 0⟩] } : State).env[2].amp.toNat ≤ 0x7FFF ∧
      params.grainFullScale.toNat ≤ 0x7FFF := by decide

theorem witness_OnlyTickWritesTheOutput :
    (Instr.nop ≠ .tick) ∧ (after .tick State.reset).map (·.out) = some [128] ∧ (after .nop State.reset).map (·.out) = some [] := by decide

theorem witness_ChromaIsTheRoundedPitch : (126 : Fin 128) < 127 := by decide

/-- Pitch number 127 is in the table, 128 is not. -/
theorem witness_PaSetincChromaWritesTheEntry : (127 : Byte).toNat = (127 : Fin 128).val ∧ 128 ≤ (128 : Byte).toNat := by decide

/-- Readings 1023 and 1024, and the two parts of a reading. -/
theorem witness_PaSetincAntilogShiftsTheEntry :
    (1023 : Word).toNat ≤ 1023 ∧ (63 : Fin 64).val = ((1023 : Word).extractLsb' 0 6).toNat ∧ 1024 ≤ (1024 : Word).toNat ∧
      (0 : Fin 64).val = ((64 : Word).extractLsb' 0 6).toNat := by decide

theorem witness_PaSetincChromakInvertsTheReading :
    (1023 : Word).toNat ≤ 1023 ∧ (0 : Fin 128).val = 127 - (1023 : Word).toNat / 8 ∧ (127 : Fin 128).val = 127 - (7 : Word).toNat / 8 ∧
      1024 ≤ (1024 : Word).toNat := by decide

theorem witness_PaSetincPentaDividesTheReading :
    (1023 : Word).toNat ≤ 1023 ∧ (0 : Fin 54).val = (1023 - (1005 : Word).toNat) / 19 ∧ (53 : Fin 54).val = (1023 - (0 : Word).toNat) / 19 ∧
      1024 ≤ (1024 : Word).toNat := by decide

/-- Keys 24 and 151 are the ends of the first offset's range, 17 and 144 those of the second's; velocity 1 is above zero. -/
theorem witness_NoteOnStartsTheNote :
    0 < (1 : Byte).toNat ∧ (24 : Byte).toNat = (0 : Fin 128).val + 24 ∧ (151 : Byte).toNat = (127 : Fin 128).val + 24 ∧
      (17 : Byte).toNat = (0 : Fin 128).val + 17 ∧ (144 : Byte).toNat = (127 : Fin 128).val + 17 ∧
      (after (.noteOn 151 1) State.reset).map (·.acc[0].inc) = some 26306 ∧
      (after (.noteOn 144 1) State.reset).map (·.acc[1].inc) = some 26306 := by decide

theorem witness_ReleaseOfTheHeldKeyClosesTheGate : (69 : Byte) = p2AfterTick3.note.num ∧ (68 : Byte) ≠ p2AfterTick3.note.num := by decide

/-- Each clause of the note's transitions, and an event that is none of them. -/
theorem witness_NoteStateMachine :
    (Instr.noteOn 60 1 = .noteOn 60 1 ∧ 0 < (1 : Byte).toNat) ∧ (69 : Byte) = p2AfterTick3.note.num ∧ (68 : Byte) ≠ p2AfterTick3.note.num ∧
      (∀ n v, Instr.tick ≠ .noteOn n v) ∧ (∀ n, Instr.tick ≠ .noteOff n) := by
  refine ⟨by decide, by decide, by decide, ?_, ?_⟩ <;> intros <;> simp

/-- `PA_SETINC 0` may write one increment and nothing else of the accumulators. -/
theorem witness_AccumulatorFrames :
    ¬ MayWritePos 0 (.paSetinc 0 1) ∧ MayWriteInc 0 (.paSetinc 0 1) ∧ ¬ MayWriteInc 1 (.paSetinc 0 1) ∧ ¬ MayWriteOvf 0 (.paSetinc 0 1) := by
  simp [MayWritePos, MayWriteInc, MayWriteOvf]

/-- `ENV_TICK 1` may write the level of one envelope and no decay parameter. -/
theorem witness_EnvelopeFrames :
    MayWriteLevel 1 (.envTick 1) ∧ ¬ MayWriteLevel 2 (.envTick 1) ∧ ¬ MayWriteDecay 1 (.envTick 1) := by
  simp [MayWriteLevel, MayWriteDecay]

/-! A state within the contract, its events at the bounds, that steps: the master at its top, a sample in the trace. -/

/-- Amplitudes at 0x7FFF, the mix at 64770, the output at 252; an `ENV_RESET` at the bound, a `TICK` and a note-on at velocity 127 follow. -/
def atTheBounds : State :=
  { State.reset with
    env := #v[⟨0x7FFF, 16, 1, 0⟩, ⟨0x7FFF, 16, 255, 254⟩, ⟨0x7FFF, 0, 0, 0⟩]
    mix := 64770
    pwm := 252
    out := [1, 252]
    events := [0x20007FFF0104, 0x010000000000, 0x40000000457F] }

theorem atTheBounds_steps :
    stepped atTheBounds = some { atTheBounds with
      env := #v[⟨0x7FFF, 1, 4, 0⟩, ⟨0x7FFF, 16, 255, 254⟩, ⟨0x7FFF, 0, 0, 0⟩]
      events := [0x010000000000, 0x40000000457F] } := by decide

theorem witness_StepKeepsTheContractRanges : InContract atTheBounds := by
  refine ⟨?_, ?_, ?_, ?_, ?_⟩
  · intro w hw
    simp only [atTheBounds, List.mem_cons, List.not_mem_nil, or_false] at hw
    rcases hw with rfl | rfl | rfl
    · show (0x7FFF : Word).toNat ≤ 0x7FFF; decide
    · trivial
    · show (127 : Byte).toNat ≤ 127; decide
  · unfold AmplitudesInRange; decide
  · decide
  · unfold SampleInRange; decide
  · unfold SampleInRange; decide

theorem witness_StepKeepsCountersBelowWrap : CountersBelowWrap atTheBounds := by unfold CountersBelowWrap; decide

theorem witness_StepKeepsOutputShowingTheTrace : OutputShowsTrace atTheBounds := by unfold OutputShowsTrace; decide

/-! Pairs of states for the two-state statements -/

/-- Two states that differ in every flag, the velocity, the mix, the output and the trace. -/
theorem witness_FlagsVelocityAndOutputAreNeverInputs :
    SameInputs p2AfterTick3 { p2AfterTick3 with ovf := #v[true, true, true, true], note := ⟨69, 1⟩, mix := 7, pwm := 9, out := [9] } :=
  ⟨rfl, rfl, rfl, rfl, rfl, rfl⟩

/-- Two states that agree on grain 0 and differ in grain 1, the master, the gate and the note. -/
theorem witness_GrainsAreUncoupled :
    SameGrain 0 p2AfterTick3
      { p2AfterTick3 with
        acc := #v[⟨49152, 16384⟩, ⟨1, 2⟩, ⟨24576, 8192⟩, ⟨3, 4⟩]
        env := #v[⟨5, 6, 7, 8⟩, ⟨0, 4, 2, 0⟩, ⟨9, 9, 9, 9⟩]
        gate := .closed
        note := ⟨1, 1⟩ } :=
  ⟨by decide, by decide, by decide, by decide⟩

/-- Two states that read alike at every address though their traces differ. -/
theorem witness_ReadPortDeterminesTheRegisters : ∀ a : BitVec 10, readPort p2AfterTick3 a = readPort { p2AfterTick3 with out := [42] } a :=
  fun _ => rfl

/-- The reserved addresses at the ends of the two gaps. -/
theorem witness_TablesAndReservedAddressesReadTheSame :
    (0x017 ≤ (0x017 : BitVec 10).toNat ∧ (0x0FF : BitVec 10).toNat ≤ 0x0FF) ∧
      (0x1F6 ≤ (0x1F6 : BitVec 10).toNat ∧ (0x1FF : BitVec 10).toNat ≤ 0x1FF) ∧ readPort p2AfterTick3 0x0FF = 0 ∧
      readPort p2AfterTick3 0x1FF = 0 := by decide

/-- A tie, a tick alone and a command alone, none of the commands a TICK. -/
theorem witness_RequestsBecomeOneSequence :
    (∀ r ∈ [Request.mk true (some 0x100003E80000), ⟨true, none⟩, ⟨false, some 0x120000000000⟩], r.cmd ≠ some tickWord) ∧
      serialise [⟨true, some 0x100003E80000⟩, ⟨true, none⟩, ⟨false, some 0x120000000000⟩] =
        [tickWord, 0x100003E80000, tickWord, 0x120000000000] := by decide

end Sys2Proof.Tests
end

section
/-! The reset state, register by register (10_state.md R36). -/

namespace Sys2Proof.Machine

@[simp] theorem State.reset_acc_get (k : Fin 4) : State.reset.acc[k] = ⟨0, 0⟩ := Vector.getElem_replicate k.isLt
@[simp] theorem State.reset_ovf_get (k : Fin 4) : State.reset.ovf[k] = false := Vector.getElem_replicate k.isLt
@[simp] theorem State.reset_env_get (e : Fin 3) : State.reset.env[e] = ⟨0, 0, 0, 0⟩ := Vector.getElem_replicate e.isLt

/-- Settles O11: the register files element by element, the other fields as `State.reset` writes them. -/
theorem resetHoldsTheSpecValues : Obligations.ResetHoldsTheSpecValues := by
  refine ⟨fun k => ?_, fun e => ?_, rfl, rfl, rfl, rfl, rfl, rfl⟩
  · simp only [State.reset_acc_get, State.reset_ovf_get, and_self]
  · simp only [State.reset_env_get, and_self]

end Sys2Proof.Machine
end

section
/-! The register half of the read port (10_state.md R32, R33; 20_memory.md R51): which entry of the map an address below 0x100 reads,
and each packed word of the map by its parts. -/

namespace Sys2Proof.Machine

/-! ### Packed words -/

/-- Two bytes side by side as a number: the `CFG` and `NOTE` words (R32). -/
theorem toNat_append_bytes (x y : Byte) : (x ++ y).toNat = x.toNat * 256 + y.toNat := by
  rw [BitVec.toNat_append, ← Nat.shiftLeft_add_eq_or_of_lt y.isLt, Nat.shiftLeft_eq]

theorem cfgWord_toNat (v : Envelope) : (cfgWord v).toNat = v.dec.toNat * 256 + v.div.toNat := toNat_append_bytes v.dec v.div

/-- Five bits added up by their place values can be read back one by one, and nothing stands above them. -/
theorem bits_of_place_values : ∀ g a b c d : Bool,
    let w := BitVec.ofNat 16 (g.toNat + 2 * a.toNat + 4 * b.toNat + 8 * c.toNat + 16 * d.toNat)
    w.getLsbD 0 = g ∧ w.getLsbD 1 = a ∧ w.getLsbD 2 = b ∧ w.getLsbD 3 = c ∧ w.getLsbD 4 = d ∧ w.toNat < 32 := by decide

theorem gateBit_eq_true_iff (g : Gate) : gateBit g = true ↔ g = .opened := by cases g <;> decide

theorem statusWord_gate (s : State) : (statusWord s).getLsbD 0 = gateBit s.gate := (bits_of_place_values ..).1

theorem statusWord_ovf (s : State) (k : Fin 4) : (statusWord s).getLsbD (1 + k.val) = s.ovf[k] := by
  obtain ⟨-, h0, h1, h2, h3, -⟩ := bits_of_place_values (gateBit s.gate) s.ovf[0] s.ovf[1] s.ovf[2] s.ovf[3]
  match k with
  | 0 => exact h0
  | 1 => exact h1
  | 2 => exact h2
  | 3 => exact h3

theorem statusWord_lt (s : State) : (statusWord s).toNat < 32 := by
  obtain ⟨-, -, -, -, -, h⟩ := bits_of_place_values (gateBit s.gate) s.ovf[0] s.ovf[1] s.ovf[2] s.ovf[3]
  exact h

/-- Every sample fits a word, whatever the amplitude (R133). -/
theorem sample_lt (p : Params) (g : Fin 2) (s : State) : sample p g s < 65536 := by
  have hle := sample_le_high p g s
  have hhigh := (highByte s.env[grainEnv g].amp).isLt
  omega

/-- A sample is read without truncation (R65). -/
theorem toNat_ofNat_sample (p : Params) (g : Fin 2) (s : State) : (BitVec.ofNat 16 (sample p g s)).toNat = sample p g s :=
  
  (BitVec.toNat_ofNat _ _).trans (Nat.mod_eq_of_lt (sample_lt p g s))

/-! ### The map by index -/

section
variable (p : Params) (s : State)

theorem registerAt_pos (k : Fin 4) : registerAt p s (2 * k.val) = s.acc[k].pos := by
  match k with
  | 0 | 1 | 2 | 3 => rfl

theorem registerAt_inc (k : Fin 4) : registerAt p s (2 * k.val + 1) = s.acc[k].inc := by
  match k with
  | 0 | 1 | 2 | 3 => rfl

theorem registerAt_amp (e : Fin 3) : registerAt p s (8 + 3 * e.val) = s.env[e].amp := by
  match e with
  | 0 | 1 | 2 => rfl

theorem registerAt_cfg (e : Fin 3) : registerAt p s (9 + 3 * e.val) = cfgWord s.env[e] := by
  match e with
  | 0 | 1 | 2 => rfl

theorem registerAt_cnt (e : Fin 3) : registerAt p s (10 + 3 * e.val) = s.env[e].cnt.setWidth 16 := by
  match e with
  | 0 | 1 | 2 => rfl

/-- The reserved register addresses read 0 (R32). -/
theorem registerAt_reserved {n : Nat} (h : 0x017 ≤ n) : registerAt p s n = 0 := by
  unfold registerAt
  split <;> try omega
  rfl

end

/-! ### The port below 0x100 -/

theorem readPort_of_lt (s : State) {a : BitVec 10} (h : a.toNat < 0x100) : readPort s a = registerAt params s a.toNat := if_pos h

theorem readPort_ofNat_of_lt (s : State) {n : Nat} (h : n < 0x100) : readPort s (BitVec.ofNat 10 n) = registerAt params s n := by
  have hn : (BitVec.ofNat 10 n).toNat = n := (BitVec.toNat_ofNat _ _).trans (Nat.mod_eq_of_lt (by omega))
  rw [readPort_of_lt s (hn.symm ▸ h), hn]

theorem readPort_pos (s : State) (k : Fin 4) : readPort s (BitVec.ofNat 10 (2 * k.val)) = s.acc[k].pos := by
  rw [readPort_ofNat_of_lt s (by omega), registerAt_pos]

theorem readPort_inc (s : State) (k : Fin 4) : readPort s (BitVec.ofNat 10 (2 * k.val + 1)) = s.acc[k].inc := by
  rw [readPort_ofNat_of_lt s (by omega), registerAt_inc]

theorem readPort_amp (s : State) (e : Fin 3) : readPort s (BitVec.ofNat 10 (8 + 3 * e.val)) = s.env[e].amp := by
  rw [readPort_ofNat_of_lt s (by omega), registerAt_amp]

theorem readPort_cfg (s : State) (e : Fin 3) : readPort s (BitVec.ofNat 10 (9 + 3 * e.val)) = cfgWord s.env[e] := by
  rw [readPort_ofNat_of_lt s (by omega), registerAt_cfg]

theorem readPort_cnt (s : State) (e : Fin 3) : readPort s (BitVec.ofNat 10 (10 + 3 * e.val)) = s.env[e].cnt.setWidth 16 := by
  rw [readPort_ofNat_of_lt s (by omega), registerAt_cnt]

theorem readPort_note (s : State) : readPort s 0x011 = s.note.num ++ s.note.vel := rfl
theorem readPort_status (s : State) : readPort s 0x012 = statusWord s := rfl
theorem readPort_mix (s : State) : readPort s 0x013 = s.mix := rfl
theorem readPort_pwm (s : State) : readPort s 0x014 = s.pwm.setWidth 16 := rfl
theorem readPort_sample0 (s : State) : readPort s 0x015 = BitVec.ofNat 16 (sample params 0 s) := rfl
theorem readPort_sample1 (s : State) : readPort s 0x016 = BitVec.ofNat 16 (sample params 1 s) := rfl

theorem readPort_reserved_register (s : State) {a : BitVec 10} (hlo : 0x017 ≤ a.toNat) (hhi : a.toNat ≤ 0x0FF) :
    readPort s a = 0 := by
  rw [readPort_of_lt s (by omega), registerAt_reserved _ _ hlo]

/-- Settles O53: each address by its entry in the map, then each packed word by its parts. -/
theorem registerMapShowsTheState : Obligations.RegisterMapShowsTheState := by
  intro s
  refine ⟨fun k => ⟨readPort_pos s k, readPort_inc s k⟩, fun e => ⟨readPort_amp s e, ?cfg, ?cnt⟩, ?note, ?gate, ?ovf, ?statusHigh,
    readPort_mix s, ?pwm, ?sample0, ?sample1, fun _ => readPort_reserved_register s⟩
  case cfg => rw [readPort_cfg, cfgWord_toNat]
  case cnt => rw [readPort_cnt, BitVec.toNat_setWidth_of_le (by decide)]
  case note => rw [readPort_note, toNat_append_bytes]
  case gate => rw [readPort_status, statusWord_gate, gateBit_eq_true_iff]
  case ovf => intro k; rw [readPort_status, statusWord_ovf]
  case statusHigh => rw [readPort_status]; exact statusWord_lt s
  case pwm => rw [readPort_pwm, BitVec.toNat_setWidth_of_le (by decide)]
  case sample0 => rw [readPort_sample0, toNat_ofNat_sample]
  case sample1 => rw [readPort_sample1, toNat_ofNat_sample]

end Sys2Proof.Machine
end

section
/-! What the decoder answers to each kind of word (30_encoding.md R75, R76, R81): a row with a legal selector as it stands, `NOP` for
a reserved opcode or a reserved selector, and nothing that stops the block. -/

namespace Sys2Proof.Machine

/-! ### The three answers of the decoder -/

theorem decodeFields_of_wellFormed {f : Fields} (h : (rowOf f).wellFormed = true) : decodeFields f = rowOf f := if_pos h

theorem decodeFields_of_reserved_selector {f : Fields} (h : (rowOf f).wellFormed = false) : decodeFields f = .nop :=
  if_neg (by rw [h]; decide)

theorem decodeFields_of_reserved_opcode {f : Fields} (h : f.op ∉ usedOpcodes) : decodeFields f = .nop := by
  have hrow : rowOf f = .nop := rowOf_reserved f h
  have hwf : (rowOf f).wellFormed = true := by rw [hrow]; rfl
  rw [decodeFields_of_wellFormed hwf, hrow]

/-- The row is all the decoder looks at: words with equal rows have equal meanings. -/
theorem decodeWord_wordOf_congr {f g : Fields} (h : rowOf f = rowOf g) : decodeWord (wordOf f) = decodeWord (wordOf g) := by
  rw [decodeWord_wordOf, decodeWord_wordOf, decodeFields, decodeFields, h]

/-! ### Every word has a meaning -/

/-- No instruction stops the block (R210). -/
theorem exec_completes (i : Instr) (s : State) : ∃ t, exec i s = .next t := by
  cases i <;> exact ⟨_, rfl⟩

/-- Settles O7: a word's opcode is in use or reserved, and the selector of a row in use is legal or reserved. -/
theorem everyWordHasAMeaning : Obligations.EveryWordHasAMeaning := by
  intro w
  refine ⟨decodeFields_wellFormed (fieldsOf w), ?meaning, exec_completes (decodeWord w)⟩
  case meaning =>
    by_cases hop : (fieldsOf w).op ∈ usedOpcodes
    · cases hsel : (rowOf (fieldsOf w)).wellFormed with
      | true => exact .inl ⟨hop, rfl, decodeFields_of_wellFormed hsel⟩
      | false => exact .inr ⟨.inr rfl, decodeFields_of_reserved_selector hsel⟩
    · exact .inr ⟨.inl hop, decodeFields_of_reserved_opcode hop⟩

/-! ### Reserved opcodes and reserved selectors -/

/-- Executing a word that decodes to `NOP` leaves every state as it is (R157). -/
theorem exec_decodeWord_of_nop {w : EventWord} (h : decodeWord w = .nop) (s : State) : exec (decodeWord w) s = .next s := by
  rw [h, exec_nop]

/-- The six gaps between the opcodes in use (R73, R75). -/
theorem not_mem_usedOpcodes_iff (op : Byte) :
    op ∉ usedOpcodes ↔
      (0x02 ≤ op.toNat ∧ op.toNat ≤ 0x0F) ∨ (0x13 ≤ op.toNat ∧ op.toNat ≤ 0x17) ∨ (0x1C ≤ op.toNat ∧ op.toNat ≤ 0x1F) ∨
        (0x23 ≤ op.toNat ∧ op.toNat ≤ 0x2F) ∨ (0x31 ≤ op.toNat ∧ op.toNat ≤ 0x3F) ∨ 0x43 ≤ op.toNat := by
  simp only [usedOpcodes, List.mem_cons, List.not_mem_nil, or_false, ← BitVec.toNat_inj, BitVec.reduceToNat]
  omega

/-- Settles O4: the six ranges are the gaps of the opcode map, and the decoder answers `NOP` there. -/
theorem reservedOpcodeActsAsNop : Obligations.ReservedOpcodeActsAsNop := by
  intro f
  refine ⟨(not_mem_usedOpcodes_iff f.op).symm, fun hreserved => ?_⟩
  have hnop : decodeWord (wordOf f) = .nop := by
    rw [decodeWord_wordOf, decodeFields_of_reserved_opcode ((not_mem_usedOpcodes_iff f.op).2 hreserved)]
  exact ⟨hnop, exec_decodeWord_of_nop hnop⟩

/-- The accumulator family checks its selector against the accumulators (R74, R76). -/
theorem rowOf_wellFormed_acc {f : Fields} (h : f.op ∈ ([0x10, 0x11, 0x12, 0x18, 0x19, 0x1A, 0x1B] : List Byte)) :
    (rowOf f).wellFormed = isAccSel f.sel := by
  obtain ⟨op, sel, a, b, c⟩ := f
  fin_cases h <;> rfl

/-- The envelope family checks its selector against the envelopes (R74, R76). -/
theorem rowOf_wellFormed_env {f : Fields} (h : f.op ∈ ([0x20, 0x21, 0x22] : List Byte)) :
    (rowOf f).wellFormed = isEnvSel f.sel := by
  obtain ⟨op, sel, a, b, c⟩ := f
  fin_cases h <;> rfl

/-- `GR_RESET` checks its selector against the grains (R74, R76). -/
theorem rowOf_wellFormed_grain {f : Fields} (h : f.op = 0x30) : (rowOf f).wellFormed = isGrainSel f.sel := by
  obtain ⟨op, sel, a, b, c⟩ := f
  cases h
  rfl

/-- Settles O5: each family's selector check fails from its bound on. -/
theorem reservedSelectorActsAsNop : Obligations.ReservedSelectorActsAsNop := by
  intro f h
  have hsel : (rowOf f).wellFormed = false := by
    rcases h with ⟨hop, hle⟩ | ⟨hop, hle⟩ | ⟨hop, hle⟩
    · rw [rowOf_wellFormed_acc hop]; exact decide_eq_false hle.not_gt
    · rw [rowOf_wellFormed_env hop]; exact decide_eq_false hle.not_gt
    · rw [rowOf_wellFormed_grain hop]; exact decide_eq_false hle.not_gt
  have hnop : decodeWord (wordOf f) = .nop := by rw [decodeWord_wordOf, decodeFields_of_reserved_selector hsel]
  exact ⟨hnop, exec_decodeWord_of_nop hnop⟩

end Sys2Proof.Machine
end

section
/-! The fields a format does not use (30_encoding.md R71, R77): the row does not depend on them, and an encoding holds 0 there. -/

namespace Sys2Proof.Machine

/-! ### Decoding ignores them -/

section
variable {op : Byte} (sel : Byte) (a : Word) (b c : Byte)

/-- Format Z uses no field. -/
theorem rowOf_formatZ (h : op ∈ ([0x00, 0x01] : List Byte)) : rowOf ⟨op, sel, a, b, c⟩ = rowOf ⟨op, 0, 0, 0, 0⟩ := by
  fin_cases h <;> rfl

/-- Format S uses the selector. -/
theorem rowOf_formatS (h : op ∈ ([0x12, 0x22, 0x30] : List Byte)) : rowOf ⟨op, sel, a, b, c⟩ = rowOf ⟨op, sel, 0, 0, 0⟩ := by
  fin_cases h <;> rfl

/-- Format SA uses the selector and `a`. -/
theorem rowOf_formatSA (h : op ∈ ([0x10, 0x11, 0x19, 0x1A, 0x1B] : List Byte)) :
    rowOf ⟨op, sel, a, b, c⟩ = rowOf ⟨op, sel, a, 0, 0⟩ := by
  fin_cases h <;> rfl

end

/-- A bend reads the low 14 bits of its value alone (R194). -/
theorem bendDelta_congr (p : Params) {a a' : Word} (h : a.toNat % 16384 = a'.toNat % 16384) : bendDelta p a = bendDelta p a' := by
  have hlow : (a.extractLsb' 0 14).toNat = (a'.extractLsb' 0 14).toNat := by
    rw [BitVec.extractLsb'_toNat, BitVec.extractLsb'_toNat, Nat.shiftRight_zero, Nat.shiftRight_zero]
    exact h
  rw [bendDelta, bendDelta, hlow]

theorem exec_pitchbend_congr {a a' : Word} (s : State) (h : a.toNat % 16384 = a'.toNat % 16384) :
    exec (.pitchbend a) s = exec (.pitchbend a') s := by
  rw [exec_pitchbend, exec_pitchbend, pitchBend, pitchBend, bendDelta_congr params h]

/-! ### Encodings hold 0 there -/

theorem fieldsOf_encode (i : Instr) : fieldsOf (encode i) = encodeFields i := fieldsOf_wordOf (encodeFields i)

/-- A format by its opcodes: with one of them, the fields the format does not use are 0 (R71, R77). -/
def UnusedFieldsZero (f : Fields) : Prop :=
  (f.op ∈ ([0x00, 0x01] : List Byte) → f.sel = 0 ∧ f.a = 0 ∧ f.b = 0 ∧ f.c = 0) ∧
  (f.op ∈ ([0x12, 0x22, 0x30] : List Byte) → f.a = 0 ∧ f.b = 0 ∧ f.c = 0) ∧
  (f.op ∈ ([0x10, 0x11, 0x19, 0x1A, 0x1B] : List Byte) → f.b = 0 ∧ f.c = 0) ∧
  (f.op = 0x18 → f.a = 0 ∧ f.c = 0) ∧ (f.op = 0x21 → f.a = 0) ∧ (f.op = 0x40 → f.sel = 0 ∧ f.a = 0) ∧
  (f.op = 0x41 → f.sel = 0 ∧ f.a = 0 ∧ f.c = 0) ∧ (f.op = 0x42 → f.sel = 0 ∧ f.b = 0 ∧ f.c = 0)

/-- Row by row: the clause of the row's own format reads zeros off the encoding, and the other clauses name other opcodes. -/
theorem encodeFields_unusedFieldsZero (i : Instr) : UnusedFieldsZero (encodeFields i) := by
  cases i <;> simp [UnusedFieldsZero, encodeFields]

/-- Settles O6: format by format, then the bend value, then the encodings. -/
theorem unusedFieldsAreIgnored : Obligations.UnusedFieldsAreIgnored := by
  refine ⟨?formatZ, ?formatS, ?formatSA, ?formatSB, ?formatSBC, ?formatBC, ?formatB, ?formatA, ?bend, ?encodings⟩
  case formatZ => exact fun op sel a b c h => decodeWord_wordOf_congr (rowOf_formatZ sel a b c h)
  case formatS => exact fun op sel a b c h => decodeWord_wordOf_congr (rowOf_formatS sel a b c h)
  case formatSA => exact fun op sel a b c h => decodeWord_wordOf_congr (rowOf_formatSA sel a b c h)
  case formatSB => exact fun sel a b c => decodeWord_wordOf_congr rfl
  case formatSBC => exact fun sel a b c => decodeWord_wordOf_congr rfl
  case formatBC => exact fun sel a b c => decodeWord_wordOf_congr rfl
  case formatB => exact fun sel a b c => decodeWord_wordOf_congr rfl
  case formatA => exact fun sel a b c => decodeWord_wordOf_congr rfl
  case bend => exact fun a a' s h => exec_pitchbend_congr s h
  case encodings =>
    intro i
    have hzero : UnusedFieldsZero (encodeFields i) := encodeFields_unusedFieldsZero i
    rwa [← fieldsOf_encode] at hzero

end Sys2Proof.Machine
end

section
/-! The phase accumulator (40_phase_accumulator.md): `advance` and the 16-bit sum in numbers, the overflow law (R90, R91), and the three
commands that reach one accumulator (R92 to R94). -/

namespace Sys2Proof.Machine

/-! ### The 16-bit sum and its overflow (R90, R91) -/

section
variable (x y : Word)

/-- The spec's sum modulo 2^16 is the model's sum of words: it wraps and never saturates (R95). -/
theorem ofNat_add_mod_word : BitVec.ofNat 16 ((x.toNat + y.toNat) % 65536) = x + y := by
  apply BitVec.eq_of_toNat_eq
  rw [BitVec.toNat_add, BitVec.toNat_ofNat, Nat.mod_mod]

theorem wrapped_add_eq_decide : wrapped x (x + y) = decide ((x.toNat + y.toNat) % 65536 < x.toNat) := by
  rw [wrapped, BitVec.toNat_add]

theorem wrapped_iff_lt : wrapped x y = true ↔ y.toNat < x.toNat := decide_eq_true_iff

/-- Reading (c) of the overflow law: the sum is `y` less what `x` lacked to 65536, so it wraps exactly when it falls short of `y`. -/
theorem wrapped_add_iff_lt_right : wrapped x (x + y) = true ↔ 0 < y.toNat ∧ (x + y).toNat < y.toNat := by
  have hx := x.isLt
  have hy := y.isLt
  rw [wrapped_add_iff, BitVec.toNat_add]
  omega

theorem wrapped_self : wrapped x x = false := decide_eq_false (Nat.lt_irrefl _)

end

/-! ### One advance (R90) -/

section
variable (k : Fin 4) (s : State)

theorem advance_ovf_self : (advance k s).ovf[k] = wrapped s.acc[k].pos (s.acc[k].pos + s.acc[k].inc) := by
  rw [advance, State.setOvf_get, if_pos rfl]

theorem advance_pos_self : (advance k s).acc[k].pos = s.acc[k].pos + s.acc[k].inc := by
  rw [advance, State.setOvf_acc, State.setPos_get, if_pos rfl]

theorem advance_eq_update :
    advance k s =
      { s with
        acc := s.acc.set k { s.acc[k] with pos := BitVec.ofNat 16 ((s.acc[k].pos.toNat + s.acc[k].inc.toNat) % 65536) }
        ovf := s.ovf.set k (decide ((s.acc[k].pos.toNat + s.acc[k].inc.toNat) % 65536 < s.acc[k].pos.toNat)) } := by
  rw [ofNat_add_mod_word, ← wrapped_add_eq_decide]
  rfl

theorem modulate_eq_update (d : Word) :
    modulate k d s =
      { s with acc := s.acc.set k { s.acc[k] with pos := BitVec.ofNat 16 ((s.acc[k].pos.toNat + d.toNat) % 65536) } } := by
  rw [ofNat_add_mod_word]
  rfl

end

/-! ### Accumulator events: a legal selector, a reserved one, and the word (R74, R76) -/

theorem onAcc_ofNat (k : Fin 4) (f : Fin 4 → State → State) (s : State) : onAcc (BitVec.ofNat 8 k.val) f s = f k s :=
  onAcc_some (accOf_ofNat k) f s

theorem onAcc_of_four_le {sel : Byte} (h : 4 ≤ sel.toNat) (f : Fin 4 → State → State) (s : State) : onAcc sel f s = s :=
  onAcc_reserved (decide_eq_false h.not_gt) f s

/-- A word of the accumulator family means its row exactly when its selector names an accumulator. -/
theorem decodeWord_wordOf_acc {op : Byte} (h : op ∈ ([0x10, 0x11, 0x12, 0x18, 0x19, 0x1A, 0x1B] : List Byte)) (sel : Byte)
    (a : Word) (b c : Byte) :
    decodeWord (wordOf ⟨op, sel, a, b, c⟩) = if sel.toNat < 4 then rowOf ⟨op, sel, a, b, c⟩ else .nop := by
  rw [decodeWord_wordOf, decodeFields, rowOf_wellFormed_acc h]
  simp only [isAccSel, decide_eq_true_eq]

theorem exec_paSetinc_ofNat (k : Fin 4) (v : Word) (s : State) :
    exec (.paSetinc (BitVec.ofNat 8 k.val) v) s = .next (s.setInc k v) := by
  rw [exec_paSetinc, onAcc_ofNat]

theorem exec_paModulate_ofNat (k : Fin 4) (d : Word) (s : State) :
    exec (.paModulate (BitVec.ofNat 8 k.val) d) s = .next (modulate k d s) := by
  rw [exec_paModulate, onAcc_ofNat]

theorem exec_paAdvance_ofNat (k : Fin 4) (s : State) :
    exec (.paAdvance (BitVec.ofNat 8 k.val)) s = .next (advance k s) := by
  rw [exec_paAdvance, onAcc_ofNat]

/-! ### The obligations -/

/-- Settles O18: the flag after the advance is `wrapped` of the old position and its sum with the increment, and each clause is a
reading of that. -/
theorem overflowReportsTheTrueSum : Obligations.OverflowReportsTheTrueSum := by
  intro k s
  refine ⟨advance k s, exec_paAdvance_ofNat k s, ?_⟩
  rw [advance_ovf_self, advance_pos_self]
  refine ⟨wrapped_iff_lt _ _, wrapped_add_iff _ _, wrapped_add_iff_lt_right _ _, ?zeroIncrement, ?threshold⟩
  case zeroIncrement =>
    intro hinc
    rw [hinc, add_zero]
    exact ⟨wrapped_self _, rfl⟩
  case threshold =>
    intro _
    rw [wrapped_add_iff]
    omega

/-- Settles O14: the write of one increment, the reserved selector, and the word. -/
theorem paSetincWritesTheIncrement : Obligations.PaSetincWritesTheIncrement := by
  refine ⟨exec_paSetinc_ofNat, fun sel v s h => ?reserved, decodeWord_wordOf_acc (by decide)⟩
  case reserved => rw [exec_paSetinc, onAcc_of_four_le h]

/-- Settles O15: the modulation in numbers, the reserved selector, and the word. -/
theorem paModulateOffsetsThePosition : Obligations.PaModulateOffsetsThePosition := by
  refine ⟨fun k d s => ?legal, fun sel d s h => ?reserved, decodeWord_wordOf_acc (by decide)⟩
  case legal => rw [exec_paModulate_ofNat, modulate_eq_update]
  case reserved => rw [exec_paModulate, onAcc_of_four_le h]

/-- Settles O17: the advance in numbers, the reserved selector, and the word. -/
theorem paAdvanceMovesThePosition : Obligations.PaAdvanceMovesThePosition := by
  refine ⟨fun k s => ?legal, fun sel s h => ?reserved, decodeWord_wordOf_acc (by decide)⟩
  case legal => rw [exec_paAdvance_ofNat, advance_eq_update]
  case reserved => rw [exec_paAdvance, onAcc_of_four_le h]

end Sys2Proof.Machine
end

section
/-! The envelope (41_envelope.md): one decay step and one `EnvTick` in numbers (R110, R117), what `EnvTick` keeps (R116, R121), and the
three commands that reach one envelope (R113 to R115). -/

namespace Sys2Proof.Machine

/-! ### One decay step (R110, R117) -/

section
variable (amp : Word) (dec : Byte)

theorem decrement_toNat : (decrement amp dec).toNat = if 16 ≤ dec.toNat then 0 else amp.toNat / 2 ^ dec.toNat := by
  unfold decrement
  split
  · rfl
  · rw [BitVec.toNat_ushiftRight, Nat.shiftRight_eq_div_pow]

/-- A decay step takes off exactly its decrement: the floor never engages (R117). -/
theorem decayed_add_decrement : (decayed amp dec).toNat + (decrement amp dec).toNat = amp.toNat := by
  rw [decayed_toNat, Nat.sub_add_cancel (decrement_le amp dec)]

theorem decayed_eq_ofNat :
    decayed amp dec =
      BitVec.ofNat 16 (max 0 (amp.toNat - if 16 ≤ dec.toNat then 0 else amp.toNat / 2 ^ dec.toNat)) := by
  rw [decayed, decrement_toNat, Nat.zero_max]

end

/-! ### One tick of an envelope (R110) -/

/-- The counter moves modulo 2^8. -/
theorem toNat_add_one_byte (c : Byte) : (c + 1).toNat = (c.toNat + 1) % 256 := BitVec.toNat_add c 1

section
variable (v : Envelope)

theorem Envelope.tick_eq_update :
    v.tick =
      if v.div.toNat ≤ (v.cnt.toNat + 1) % 256 then
        { v with
          cnt := 0
          amp := BitVec.ofNat 16 (max 0 (v.amp.toNat - if 16 ≤ v.dec.toNat then 0 else v.amp.toNat / 2 ^ v.dec.toNat)) }
      else { v with cnt := BitVec.ofNat 8 ((v.cnt.toNat + 1) % 256) } := by
  rw [← decayed_eq_ofNat, ← toNat_add_one_byte, BitVec.ofNat_toNat, BitVec.setWidth_eq]
  rcases v.tick_cases with ⟨hreached, htick⟩ | ⟨hbelow, htick⟩
  · rw [htick, if_pos hreached]
  · rw [htick, if_neg hbelow.not_ge]

theorem Envelope.tick_cnt_le : v.tick.cnt.toNat ≤ 254 := by
  have hlt := v.tick_cnt_lt
  have hdiv := v.div.isLt
  omega

end

/-- A counter at or above the divider that does not wrap decays and is cleared (R121). -/
theorem Envelope.tick_of_div_le_cnt {v : Envelope} (hwrap : v.cnt.toNat ≤ 254) (hdiv : v.div.toNat ≤ v.cnt.toNat) :
    v.tick = ⟨decayed v.amp v.dec, v.dec, v.div, 0⟩ := by
  have hcnt : (v.cnt + 1).toNat = (v.cnt.toNat + 1) % 256 := toNat_add_one_byte v.cnt
  rcases v.tick_cases with ⟨-, htick⟩ | ⟨hbelow, -⟩
  · exact htick
  · omega

/-! ### The envelope an operation names -/

section
variable (e : Fin 3) (s : State)

theorem envTick_get_self : (envTick e s).env[e] = s.env[e].tick := by
  rw [envTick, State.setEnv_get, if_pos rfl]

theorem envReset_get_self (a : Word) (d v : Byte) : (envReset e a d v s).env[e] = ⟨a, d, v, 0⟩ := by
  rw [envReset, State.setEnv_get, if_pos rfl]

theorem setDecay_get_self (d v : Byte) : (setDecay e d v s).env[e] = { s.env[e] with dec := d, div := v } := by
  rw [setDecay, State.setEnv_get, if_pos rfl]

/-- The amplitude along a sequence of `EnvTick` calls is non-increasing (R116). -/
theorem antitone_amp_iterate_envTick : Antitone fun n => ((envTick e)^[n] s).env[e].amp.toNat := by
  refine antitone_nat_of_succ_le fun n => ?_
  rw [Function.iterate_succ_apply', envTick_get_self]
  exact Envelope.tick_amp_le _

end

/-! ### Envelope events: a legal selector, a reserved one, and the word (R74, R76) -/

theorem onEnv_ofNat (e : Fin 3) (f : Fin 3 → State → State) (s : State) : onEnv (BitVec.ofNat 8 e.val) f s = f e s :=
  onEnv_some (envOf_ofNat e) f s

theorem onEnv_of_three_le {sel : Byte} (h : 3 ≤ sel.toNat) (f : Fin 3 → State → State) (s : State) : onEnv sel f s = s :=
  onEnv_reserved (decide_eq_false h.not_gt) f s

/-- A word of the envelope family means its row exactly when its selector names an envelope. -/
theorem decodeWord_wordOf_env {op : Byte} (h : op ∈ ([0x20, 0x21, 0x22] : List Byte)) (sel : Byte) (a : Word) (b c : Byte) :
    decodeWord (wordOf ⟨op, sel, a, b, c⟩) = if sel.toNat < 3 then rowOf ⟨op, sel, a, b, c⟩ else .nop := by
  rw [decodeWord_wordOf, decodeFields, rowOf_wellFormed_env h]
  simp only [isEnvSel, decide_eq_true_eq]

theorem exec_envReset_ofNat (e : Fin 3) (a : Word) (d v : Byte) (s : State) :
    exec (.envReset (BitVec.ofNat 8 e.val) a d v) s = .next (envReset e a d v s) := by
  rw [exec_envReset, onEnv_ofNat]

theorem exec_envSetdecay_ofNat (e : Fin 3) (d v : Byte) (s : State) :
    exec (.envSetdecay (BitVec.ofNat 8 e.val) d v) s = .next (setDecay e d v s) := by
  rw [exec_envSetdecay, onEnv_ofNat]

theorem exec_envTick_ofNat (e : Fin 3) (s : State) : exec (.envTick (BitVec.ofNat 8 e.val)) s = .next (envTick e s) := by
  rw [exec_envTick, onEnv_ofNat]

/-! ### The obligations -/

/-- Settles O23: the amplitude is antitone in the number of ticks, and a decay step is the subtraction of its decrement. -/
theorem amplitudeNeverRises : Obligations.AmplitudeNeverRises :=
  ⟨fun e s _ _ hmn => antitone_amp_iterate_envTick e s hmn,
    fun amp dec => ⟨decrement_le amp dec, decayed_add_decrement amp dec⟩⟩

/-- Settles O25: the bounds of the counter after a tick and a reset, and the tick after a divider lowered to or below the counter. -/
theorem counterStaysBelowTheDivider : Obligations.CounterStaysBelowTheDivider := by
  refine ⟨fun e s => ⟨envTick e s, exec_envTick_ofNat e s, ?tick⟩,
    fun e a d v s => ⟨envReset e a d v s, exec_envReset_ofNat e a d v s, ?reset⟩,
    fun e d v s hwrap hdiv => ⟨setDecay e d v s, envTick e (setDecay e d v s), exec_envSetdecay_ofNat e d v s,
      exec_envTick_ofNat e _, ?lowered⟩⟩
  case tick =>
    rw [envTick_get_self]
    exact ⟨Envelope.tick_cnt_lt _, Envelope.tick_cnt_le _⟩
  case reset => rw [envReset_get_self]
  case lowered =>
    rw [envTick_get_self, setDecay_get_self, Envelope.tick_of_div_le_cnt (v := { s.env[e] with dec := d, div := v }) hwrap hdiv]
    exact ⟨rfl, rfl⟩

/-- Settles O20: the write of one envelope, the reserved selector, and the word. -/
theorem envResetLoadsTheEnvelope : Obligations.EnvResetLoadsTheEnvelope := by
  refine ⟨exec_envReset_ofNat, fun sel a d v s h => ?reserved, decodeWord_wordOf_env (by decide)⟩
  case reserved => rw [exec_envReset, onEnv_of_three_le h]

/-- Settles O21: the write of one envelope's decay parameters, the reserved selector, and the word. -/
theorem envSetdecayKeepsTheLevel : Obligations.EnvSetdecayKeepsTheLevel := by
  refine ⟨exec_envSetdecay_ofNat, fun sel d v s h => ?reserved, decodeWord_wordOf_env (by decide)⟩
  case reserved => rw [exec_envSetdecay, onEnv_of_three_le h]

/-- Settles O22: the tick in numbers, the reserved selector, and the word. -/
theorem envTickCountsAndDecays : Obligations.EnvTickCountsAndDecays := by
  refine ⟨fun e s => ?legal, fun sel s h => ?reserved, decodeWord_wordOf_env (by decide)⟩
  case legal =>
    rw [exec_envTick_ofNat, envTick, Envelope.tick_eq_update]
    rfl
  case reserved => rw [exec_envTick, onEnv_of_three_le h]

end Sys2Proof.Machine
end

section
/-! The grain (42_grain.md): what a reset writes (R131), the command that reaches one grain (R135), and a sample in numbers with its
ranges (R133, R137). -/

namespace Sys2Proof.Machine

/-! ### One grain reset (R131) -/

theorem grainReset_eq_update (p : Params) (g : Fin 2) (s : State) :
    grainReset p g s =
      { s with
        acc := s.acc.set (grainAcc g) { s.acc[grainAcc g] with pos := 0 }
        env := s.env.set (grainEnv g) { s.env[grainEnv g] with amp := p.grainFullScale, cnt := 0 } } := rfl

/-! ### The grain event: a legal selector, a reserved one, and the word (R74, R76) -/

theorem onGrain_ofNat (g : Fin 2) (f : Fin 2 → State → State) (s : State) : onGrain (BitVec.ofNat 8 g.val) f s = f g s :=
  onGrain_some (grainOf_ofNat g) f s

theorem onGrain_of_two_le {sel : Byte} (h : 2 ≤ sel.toNat) (f : Fin 2 → State → State) (s : State) : onGrain sel f s = s :=
  onGrain_reserved (decide_eq_false h.not_gt) f s

/-- A word of opcode 0x30 means `GR_RESET` exactly when its selector names a grain. -/
theorem decodeWord_wordOf_grReset (sel : Byte) (a : Word) (b c : Byte) :
    decodeWord (wordOf ⟨0x30, sel, a, b, c⟩) = if sel.toNat < 2 then .grReset sel else .nop := by
  rw [decodeWord_wordOf, decodeFields, rowOf_wellFormed_grain rfl]
  simp only [isGrainSel, decide_eq_true_eq]
  rfl

theorem exec_grReset_ofNat (g : Fin 2) (s : State) :
    exec (.grReset (BitVec.ofNat 8 g.val)) s = .next (grainReset params g s) := by
  rw [exec_grReset, onGrain_ofNat]

/-- `GR_RESET` in fields: the two writes that reach the state, with the amplitude of this configuration (R135). -/
theorem exec_grReset_eq_update (g : Fin 2) (s : State) :
    exec (.grReset (BitVec.ofNat 8 g.val)) s =
      .next { s with
        acc := s.acc.set (grainAcc g) { s.acc[grainAcc g] with pos := 0 }
        env := s.env.set (grainEnv g) { s.env[grainEnv g] with amp := 0x7FFF, cnt := 0 } } := by
  rw [exec_grReset_ofNat, grainReset_eq_update, show params.grainFullScale = 0x7FFF from rfl]

/-! ### A sample in numbers (R133, R137) -/

section
variable (p : Params) (g : Fin 2) (s : State)

theorem sample_eq_wave_mul {i : Fin 512} (hi : i.val = s.acc[grainAcc g].pos.toNat / 128) :
    sample p g s = (p.wave i).toNat * (s.env[grainEnv g].amp.toNat / 256) := by
  have hindex : waveIndex s.acc[grainAcc g].pos = i := Fin.ext ((waveIndex_val _).trans hi.symm)
  rw [sample, envValueHigh, highByte_toNat, hindex]

theorem sample_le_mul_div : sample p g s ≤ 255 * (s.env[grainEnv g].amp.toNat / 256) := by
  rw [← highByte_toNat]
  exact sample_le_high p g s

/-- The range with no bound on the amplitude: both factors are bytes. -/
theorem sample_le_65025 : sample p g s ≤ 65025 := by
  have hle := sample_le_high p g s
  have hhigh := (highByte s.env[grainEnv g].amp).isLt
  omega

end

/-! ### The obligations -/

/-- Settles O26: the reset of either grain in fields, the reserved selector, and the word. -/
theorem grResetRestartsTheGrain : Obligations.GrResetRestartsTheGrain := by
  refine ⟨exec_grReset_eq_update 0, exec_grReset_eq_update 1, fun sel s h => ?reserved, decodeWord_wordOf_grReset⟩
  case reserved => rw [exec_grReset, onGrain_of_two_le h]

/-- Settles O27: the product for either grain, and the bounds from its two factors. -/
theorem sampleIsWaveTimesEnvelope : Obligations.SampleIsWaveTimesEnvelope :=
  fun p s => ⟨fun _ => sample_eq_wave_mul p 0 s, fun _ => sample_eq_wave_mul p 1 s,
    fun g => ⟨sample_le_mul_div p g s, sample_le_65025 p g s, sample_le p g s⟩⟩

end Sys2Proof.Machine
end

section
/-! The mixer and the tick (43_mixer_tick.md): the output stage in numbers and its range (R152, R155), ticks from reset (R158), and
`NOP` (R157). -/

namespace Sys2Proof.Machine

/-! ### The output stage in numbers (R152) -/

/-- The output level before its reduction modulo 2^8: the centred high byte of the mix times the master's high byte, scaled down with
rounding toward minus infinity, and re-offset (R152). -/
def outputLevel (m a : Word) : Int :=
  Int.fdiv ((((m.toNat / 256 : Nat) : Int) - 128) * ((a.toNat / 256 : Nat) : Int)) 128 + 128

section
variable (m a : Word)

theorem outputLevel_eq_ediv :
    outputLevel m a = (((m.toNat / 256 : Nat) : Int) - 128) * ((a.toNat / 256 : Nat) : Int) / 128 + 128 := by
  rw [outputLevel, Int.fdiv_eq_ediv_of_nonneg _ (by decide)]

theorem finalise_eq_ofInt_outputLevel : finalise params m a = BitVec.ofInt 8 (outputLevel m a) := by
  rw [finalise_params, outputLevel_eq_ediv]

end

/-- With a master high byte of 0 the product is 0, whatever the two shifts and the centre are. -/
theorem finalise_of_amp_lt (p : Params) (m : Word) {a : Word} (h : a.toNat < 256) : finalise p m a = BitVec.ofInt 8 p.outCenter := by
  have hhigh : (highByte a).toNat = 0 := by rw [highByte_toNat, Nat.div_eq_of_lt h]
  simp only [finalise, hhigh, Nat.cast_zero, mul_zero, Int.zero_ediv, zero_add]

/-! ### The range of the output level (R155) -/

section
variable {m : Word} (a : Word)

/-- A mix of 0 gives the lowest level: the master's high byte below the centre. -/
theorem le_outputLevel (m : Word) : 128 - ((a.toNat / 256 : Nat) : Int) ≤ outputLevel m a := by
  have hmul : (-128) * ((a.toNat / 256 : Nat) : Int) ≤ (((m.toNat / 256 : Nat) : Int) - 128) * ((a.toNat / 256 : Nat) : Int) :=
    mul_le_mul_of_nonneg_right (by omega) (Int.natCast_nonneg _)
  rw [outputLevel_eq_ediv]
  omega

/-- The level rises with the mix, so a bound on the high byte of the mix bounds it. -/
theorem outputLevel_le {b : Nat} (hb : m.toNat / 256 ≤ b) :
    outputLevel m a ≤ ((b : Int) - 128) * ((a.toNat / 256 : Nat) : Int) / 128 + 128 := by
  have hmul : (((m.toNat / 256 : Nat) : Int) - 128) * ((a.toNat / 256 : Nat) : Int) ≤ ((b : Int) - 128) * ((a.toNat / 256 : Nat) : Int) :=
    mul_le_mul_of_nonneg_right (by omega) (Int.natCast_nonneg _)
  rw [outputLevel_eq_ediv]
  exact Int.add_le_add_right (Int.ediv_le_ediv (by decide) hmul) 128

variable {a}

/-- Up to a master high byte of 128 the level fits a byte. -/
theorem outputLevel_fits (ha : a.toNat / 256 ≤ 128) : 0 ≤ outputLevel m a ∧ outputLevel m a ≤ 255 := by
  have hlow := le_outputLevel a m
  have hhigh := outputLevel_le a (m := m) (b := 255) (by omega)
  omega

/-- So `Finalise` does not wrap there. -/
theorem toNat_finalise_params (ha : a.toNat / 256 ≤ 128) : ((finalise params m a).toNat : Int) = outputLevel m a := by
  obtain ⟨hlow, hhigh⟩ := outputLevel_fits (m := m) ha
  rw [finalise_eq_ofInt_outputLevel, BitVec.toNat_ofInt]
  omega

/-- The range in the contract: an amplitude of at most 0x7FFF and a mix of at most 64770. -/
theorem sampleInRange_finalise (ha : a.toNat / 256 ≤ 127) (hm : m.toNat ≤ 64770) : SampleInRange (finalise params m a) := by
  have hlow := le_outputLevel a m
  have hhigh := outputLevel_le a (m := m) (b := 253) (by omega)
  have hnat := toNat_finalise_params (m := m) (ha.trans (by decide))
  rw [SampleInRange]
  omega

end

/-! ### A tick in the reset state (R158) -/

/-- An envelope of zeros decays from 0 to 0. -/
theorem Envelope.tick_zero : (⟨0, 0, 0, 0⟩ : Envelope).tick = ⟨0, 0, 0, 0⟩ := by decide

section
variable {s : State} (hacc : s.acc = State.reset.acc) (henv : s.env = State.reset.env)

include hacc

/-- The sync accumulators stand still. -/
theorem syncWraps_of_reset (g : Fin 2) : syncWraps g s = false := by
  rw [syncWraps, hacc, State.reset_acc_get]
  decide

theorem grainStart_of_reset (g : Fin 2) : grainStart g s = 0 := by
  rw [grainStart, syncWraps_of_reset hacc, hacc, State.reset_acc_get]
  rfl

theorem tick_acc_of_reset (p : Params) : (tick p s).acc = State.reset.acc := by
  rw [tick_acc, grainStart_of_reset hacc, grainStart_of_reset hacc, hacc]
  decide

theorem tick_ovf_of_reset (hovf : s.ovf = State.reset.ovf) (p : Params) : (tick p s).ovf = State.reset.ovf := by
  rw [tick_ovf, syncWraps_of_reset hacc, syncWraps_of_reset hacc, grainStart_of_reset hacc, grainStart_of_reset hacc, hacc, hovf]
  decide

include henv

/-- No grain is retriggered. -/
theorem envelopeStart_of_reset (p : Params) (g : Fin 2) : envelopeStart p g s = ⟨0, 0, 0, 0⟩ := by
  rw [envelopeStart, syncWraps_of_reset hacc, henv, State.reset_env_get]
  rfl

/-- Step 6 does not depend on the gate here: a tick leaves the master envelope at zero too. -/
theorem tick_env_of_reset (p : Params) : (tick p s).env = State.reset.env := by
  have hmaster : s.env[0] = ⟨0, 0, 0, 0⟩ := by rw [henv]; rfl
  rw [tick_env, envelopeStart_of_reset hacc henv, envelopeStart_of_reset hacc henv, hmaster, Envelope.tick_zero, ite_self, henv]
  decide

/-- Both samples are 0, whatever `WAVE` holds. -/
theorem tick_mix_of_reset (p : Params) : (tick p s).mix = 0 := by
  have hhigh : (highByte 0).toNat = 0 := by decide
  rw [tick_mix, envelopeStart_of_reset hacc henv, envelopeStart_of_reset hacc henv, hhigh, mul_zero, mul_zero]
  rfl

/-- The output is the centre value, since the master amplitude is 0. -/
theorem tick_pwm_of_reset : (tick params s).pwm = 128 := by
  have hmaster : (tick params s).env[0].amp = 0 := by rw [tick_env_of_reset hacc henv]; rfl
  rw [tick_pwm, hmaster]
  exact finalise_of_amp_lt params _ (by decide)

theorem tick_out_of_reset : (tick params s).out = s.out ++ [128] := by
  rw [tick_out, tick_pwm_of_reset hacc henv]

end

section
variable (o : List Byte) (es : List EventWord) (d : Nat)

/-- One tick, field by field. -/
theorem tick_reset :
    tick params { State.reset with out := o, events := es, draws := d } =
      { State.reset with out := o ++ [128], events := es, draws := d } := by
  apply State.ext'
  case acc => exact tick_acc_of_reset rfl params
  case ovf => exact tick_ovf_of_reset rfl rfl params
  case env => exact tick_env_of_reset rfl rfl params
  case gate => exact tick_gate params _
  case note => exact tick_note params _
  case mix => exact tick_mix_of_reset rfl rfl params
  case pwm => exact tick_pwm_of_reset rfl rfl
  case out => exact tick_out_of_reset rfl rfl
  case events => exact tick_events params _
  case draws => exact tick_draws params _

theorem iterate_tick_reset (n : Nat) :
    (tick params)^[n] { State.reset with out := o, events := es, draws := d } =
      { State.reset with out := o ++ List.replicate n 128, events := es, draws := d } := by
  induction n generalizing o with
  | zero => rw [Function.iterate_zero_apply, List.replicate_zero, List.append_nil]
  | succ n ih => rw [Function.iterate_succ_apply, tick_reset, ih, List.append_assoc, List.singleton_append, ← List.replicate_succ]

end

/-! ### The obligations -/

/-- Settles O13: one tick in the reset state, and the induction on their number. -/
theorem ticksFromResetWriteTheCentre : Obligations.TicksFromResetWriteTheCentre := by
  refine ⟨fun o es n => ?one, fun o es d n => iterate_tick_reset o es d n⟩
  case one => rw [exec_tick, tick_reset]

/-- Settles O31: the level fits a byte, its bounds in the contract, the centre, and the two wrapping examples evaluated. -/
theorem outputRangeFollowsTheMasterByte : Obligations.OutputRangeFollowsTheMasterByte :=
  ⟨fun _ _ => toNat_finalise_params, fun _ _ => sampleInRange_finalise, fun m _ h => finalise_of_amp_lt params m h,
    by decide, by decide⟩

/-- Settles O30: the unreduced level of this configuration, and the centre for every setting of the constants. -/
theorem finaliseCentresScalesAndReoffsets : Obligations.FinaliseCentresScalesAndReoffsets :=
  ⟨finalise_eq_ofInt_outputLevel, fun p m _ h => finalise_of_amp_lt p m h⟩

/-- Settles O34: the meaning of `NOP`, and its row, which uses no field (R71). -/
theorem nopChangesNothing : Obligations.NopChangesNothing := by
  refine ⟨exec_nop, fun sel a b c => ?word⟩
  case word => rw [decodeWord_wordOf, decodeFields_of_wellFormed rfl]; rfl

end Sys2Proof.Machine
end

section
/-! The chromatic table (44_lookup_tables.md R171, R172): its formula has a rational twelfth power, so rounding it is a comparison of
natural numbers. -/

namespace Sys2Proof.Machine

/-! ### Rounding a root -/

/-- A nonnegative root of a rational number rounds to `n` when the power of it lies between those of `n - 1/2` and `n + 1/2`; both
bounds are doubled and cleared of the denominator. -/
theorem round_eq_of_pow_eq_div {x : ℝ} {k n num den : ℕ} (hx : 0 ≤ x) (hk : k ≠ 0) (hden : 0 < den)
    (hpow : x ^ k = num / den) (hlow : (2 * n - 1) ^ k * den ≤ 2 ^ k * num) (hhigh : 2 ^ k * num < (2 * n + 1) ^ k * den) :
    round x = n := by
  have hdenR : (0 : ℝ) < den := Nat.cast_pos.2 hden
  have hdouble : (2 * x) ^ k = ((2 ^ k * num : ℕ) : ℝ) / den := by
    rw [mul_pow, hpow, Nat.cast_mul, Nat.cast_pow, Nat.cast_ofNat, mul_div_assoc]
  have hbelow : ((2 * n - 1 : ℕ) : ℝ) ≤ 2 * x := by
    refine le_of_pow_le_pow_left₀ hk (by positivity) ?_
    rw [hdouble, le_div_iff₀ hdenR]
    exact_mod_cast hlow
  have habove : 2 * x < ((2 * n + 1 : ℕ) : ℝ) := by
    refine lt_of_pow_lt_pow_left₀ k (Nat.cast_nonneg _) ?_
    rw [hdouble, div_lt_iff₀ hdenR]
    exact_mod_cast hhigh
  have hpred : (2 * n : ℝ) ≤ ((2 * n - 1 : ℕ) : ℝ) + 1 := by exact_mod_cast (le_tsub_add : 2 * n ≤ 2 * n - 1 + 1)
  push_cast at habove
  rw [round_eq_iff, Int.cast_natCast]
  constructor <;> linarith

/-! ### The formula of the table -/

/-- The phase increment of pitch `p` before rounding: `frequencyOf(p) * 65536 / sampleRate` (R171). -/
noncomputable def pitchIncrement (p : ℕ) : ℝ := (440 : ℝ) * (2 : ℝ) ^ (((p : ℝ) - 69) / 12) * 65536 / (sampleRate : ℝ)

theorem pitchIncrement_nonneg (p : ℕ) : 0 ≤ pitchIncrement p := by
  unfold pitchIncrement
  positivity

/-- Twelve semitones are an octave, a doubling. -/
theorem pitchIncrement_pow_twelve (p : ℕ) :
    pitchIncrement p ^ 12 = (((440 * 65536) ^ 12 * 2 ^ p : ℕ) : ℝ) / ((sampleRate ^ 12 * 2 ^ 69 : ℕ) : ℝ) := by
  have hoctave : ((2 : ℝ) ^ (((p : ℝ) - 69) / 12)) ^ 12 = 2 ^ p / 2 ^ 69 := by
    rw [← Real.rpow_mul_natCast two_pos.le, Nat.cast_ofNat, div_mul_cancel₀ _ (by norm_num), Real.rpow_sub two_pos,
      Real.rpow_natCast]
    norm_cast
  have hsplit : pitchIncrement p = 440 * 65536 / sampleRate * (2 : ℝ) ^ (((p : ℝ) - 69) / 12) := by
    unfold pitchIncrement
    ring
  rw [hsplit, mul_pow, hoctave, div_pow, div_mul_div_comm]
  simp only [Nat.cast_mul, Nat.cast_pow, Nat.cast_ofNat]

/-! ### The entries -/

/-- The half-integers on both sides of an entry enclose the formula, compared as twelfth powers. -/
theorem chroma_encloses (p : Fin 128) :
    (2 * (chroma p).toNat - 1) ^ 12 * (sampleRate ^ 12 * 2 ^ 69) ≤ 2 ^ 12 * ((440 * 65536) ^ 12 * 2 ^ p.val) ∧
      2 ^ 12 * ((440 * 65536) ^ 12 * 2 ^ p.val) < (2 * (chroma p).toNat + 1) ^ 12 * (sampleRate ^ 12 * 2 ^ 69) := by
  revert p
  decide

theorem round_pitchIncrement (p : Fin 128) : round (pitchIncrement p.val) = ((chroma p).toNat : ℤ) := by
  obtain ⟨hlow, hhigh⟩ := chroma_encloses p
  exact round_eq_of_pow_eq_div (pitchIncrement_nonneg _) (by decide) (by decide) (pitchIncrement_pow_twelve _) hlow hhigh

/-- Each entry is below the next one (R172). -/
theorem chroma_lt_succ (p : Fin 127) : (chroma p.castSucc).toNat < (chroma p.succ).toNat := by
  revert p
  decide

theorem strictMono_chroma : StrictMono fun p => (chroma p).toNat := Fin.strictMono_iff_lt_succ.2 chroma_lt_succ

/-! ### The obligation -/

/-- Settles O35: each entry is the rounded formula, and the rise from each entry to the next. -/
theorem chromaIsTheRoundedPitch : Obligations.ChromaIsTheRoundedPitch :=
  ⟨fun p => (round_pitchIncrement p).symm, fun _ _ hpq => strictMono_chroma hpq⟩

end Sys2Proof.Machine
end

section
/-! The table-driven increments (44_lookup_tables.md): the four lookups inside and outside their contract (R173, R175, R176, R178, R183)
and the four commands that write what they give (R179 to R182). -/

namespace Sys2Proof.Machine

/-! ### The lookups inside and outside their contract -/

theorem chromaByPitch_val (p : Fin 128) : chromaByPitch p.val = some (chroma p) := dif_pos (by omega)

theorem chromaByPitch_of_lt {p : Int} (h : 127 < p) : chromaByPitch p = none := dif_neg (by omega)

section
variable {c : Nat}

theorem chromaByControl_of_le (h : c ≤ 1023) {p : Fin 128} (hp : p.val = 127 - c / 8) : chromaByControl c = some (chroma p) := by
  have hindex : (1023 - c) >>> 3 = p.val := by
    rw [Nat.shiftRight_eq_div_pow]
    omega
  simp only [chromaByControl, if_pos h, hindex]

theorem chromaByControl_of_lt (h : 1023 < c) : chromaByControl c = none := if_neg h.not_ge

variable (p : Params)

theorem antilogByControl_of_le (h : c ≤ 1023) {i : Fin 64} (hi : i.val = c % 64) :
    antilogByControl p c = some (p.antilog i >>> (c / 64)) := by
  simp only [antilogByControl, if_pos h, ← hi]

theorem antilogByControl_of_lt (h : 1023 < c) : antilogByControl p c = none := if_neg h.not_ge

theorem pentaByControl_of_le (h : c ≤ 1023) {i : Fin 54} (hi : i.val = (1023 - c) / 19) :
    pentaByControl p c = some (p.penta i) := by
  simp only [pentaByControl, if_pos h, ← hi]

theorem pentaByControl_of_lt (h : 1023 < c) : pentaByControl p c = none := if_neg h.not_ge

end

/-! ### The two parts of a control reading (R176) -/

theorem toNat_reading_low (a : Word) : (a.extractLsb' 0 6).toNat = a.toNat % 64 := BitVec.extractLsb'_toNat 0 6 a

theorem toNat_reading_high {a : Word} (h : a.toNat ≤ 1023) : (a.extractLsb' 6 4).toNat = a.toNat / 64 := by
  rw [BitVec.extractLsb'_toNat, Nat.shiftRight_eq_div_pow]
  omega

/-! ### What a lookup's increment is -/

section
variable (k : Fin 4) (s : State)

theorem onAcc_setIncLookup_some (v : Word) :
    onAcc (BitVec.ofNat 8 k.val) (fun j => setIncLookup j (some v)) s =
      { s with acc := s.acc.set k { s.acc[k] with inc := v } } := onAcc_ofNat k _ s

/-- Outside the contract the increment is the next draw (R178). -/
theorem onAcc_setIncLookup_none :
    onAcc (BitVec.ofNat 8 k.val) (fun j => setIncLookup j none) s =
      { s with acc := s.acc.set k { s.acc[k] with inc := Config.any16 s.draws }, draws := s.draws + 1 } := onAcc_ofNat k _ s

end

/-! ### The obligations -/

/-- Settles O38: the pitch inside the table and above it, the reserved selector, and the word. -/
theorem paSetincChromaWritesTheEntry : Obligations.PaSetincChromaWritesTheEntry := by
  refine ⟨fun k b p s hp => ?inside, fun k b s h => ⟨Config.any16 s.draws, s.draws + 1, ?outside⟩, fun sel b s h => ?reserved,
    decodeWord_wordOf_acc (by decide)⟩
  case inside => rw [exec_paSetincChroma, hp, chromaByPitch_val, onAcc_setIncLookup_some]
  case outside => rw [exec_paSetincChroma, chromaByPitch_of_lt (by omega), onAcc_setIncLookup_none]
  case reserved => rw [exec_paSetincChroma, onAcc_of_four_le h]

/-- Settles O39: the reading split into index and shift, the reading above 1023, the reserved selector, and the word. -/
theorem paSetincAntilogShiftsTheEntry : Obligations.PaSetincAntilogShiftsTheEntry := by
  refine ⟨fun k a i s h hi => ?inside, fun k a s h => ⟨Config.any16 s.draws, s.draws + 1, ?outside⟩, fun sel a s h => ?reserved,
    decodeWord_wordOf_acc (by decide)⟩
  case inside =>
    rw [exec_paSetincAntilog, antilogByControl_of_le params h (hi.trans (toNat_reading_low a)), onAcc_setIncLookup_some,
      toNat_reading_high h]
  case outside => rw [exec_paSetincAntilog, antilogByControl_of_lt params h, onAcc_setIncLookup_none]
  case reserved => rw [exec_paSetincAntilog, onAcc_of_four_le h]

/-- Settles O40: the inverted reading, the reading above 1023, the reserved selector, and the word. -/
theorem paSetincChromakInvertsTheReading : Obligations.PaSetincChromakInvertsTheReading := by
  refine ⟨fun k a p s h hp => ?inside, fun k a s h => ⟨Config.any16 s.draws, s.draws + 1, ?outside⟩, fun sel a s h => ?reserved,
    decodeWord_wordOf_acc (by decide)⟩
  case inside => rw [exec_paSetincChromak, chromaByControl_of_le h hp, onAcc_setIncLookup_some]
  case outside => rw [exec_paSetincChromak, chromaByControl_of_lt h, onAcc_setIncLookup_none]
  case reserved => rw [exec_paSetincChromak, onAcc_of_four_le h]

/-- Settles O41: the inverted reading in steps of 19, the reading above 1023, the reserved selector, and the word. -/
theorem paSetincPentaDividesTheReading : Obligations.PaSetincPentaDividesTheReading := by
  refine ⟨fun k a i s h hi => ?inside, fun k a s h => ⟨Config.any16 s.draws, s.draws + 1, ?outside⟩, fun sel a s h => ?reserved,
    decodeWord_wordOf_acc (by decide)⟩
  case inside => rw [exec_paSetincPenta, pentaByControl_of_le params h hi, onAcc_setIncLookup_some]
  case outside => rw [exec_paSetincPenta, pentaByControl_of_lt params h, onAcc_setIncLookup_none]
  case reserved => rw [exec_paSetincPenta, onAcc_of_four_le h]

end Sys2Proof.Machine
end

section
/-! The voice (45_voice_note.md): the start and the release of a note (R191 to R193), the pitch bend (R194), and the table of the note's
transitions (R190). -/

namespace Sys2Proof.Machine

/-- A word whose row needs no selector, or has a legal one, means its row. -/
theorem decodeWord_wordOf_of_wellFormed {f : Fields} (h : (rowOf f).wellFormed = true) : decodeWord (wordOf f) = rowOf f := by
  rw [decodeWord_wordOf, decodeFields_of_wellFormed h]

/-! ### The release (R192, R193) -/

section
variable {n : Byte} {s : State}

theorem noteRelease_of_held (h : n = s.note.num) : noteRelease n s = { s with gate := .closed } := if_pos (decide_eq_true h)

theorem noteRelease_of_ne (h : n ≠ s.note.num) : noteRelease n s = s := if_neg (mt of_decide_eq_true h)

/-- A note-on with velocity zero takes the branch of the release. -/
theorem exec_noteOn_zero (n : Byte) (s : State) : exec (.noteOn n 0) s = .next (noteRelease n s) := rfl

/-- The two spellings of a release answer alike. -/
theorem exec_of_release {i : Instr} (h : i = .noteOn n 0 ∨ i = .noteOff n) : exec i s = .next (noteRelease n s) := by
  obtain rfl | rfl := h
  · exact exec_noteOn_zero n s
  · exact exec_noteOff n s

end

/-! ### The start of a note (R191) -/

theorem velocityAmp_eq_ofNat_mul (v : Byte) : velocityAmp v = BitVec.ofNat 16 (v.toNat * 256) := by
  rw [velocityAmp, Nat.shiftLeft_eq]

/-- The increment a note-on gives a sync accumulator `offset` semitones below the key; the `draw`-th free value stands for a pitch
outside the table (R178). -/
def startIncrement (n : Byte) (offset : Nat) (draw : Nat) : Word := (chromaByPitch (keyOffset n offset)).getD (Config.any16 draw)

theorem startIncrement_of_toNat_eq {n : Byte} {offset : Nat} {p : Fin 128} (h : n.toNat = p.val + offset) (draw : Nat) :
    startIncrement n offset draw = chroma p := by
  have hpitch : keyOffset n offset = p.val := by
    rw [keyOffset]
    omega
  rw [startIncrement, hpitch, chromaByPitch_val, Option.getD_some]

/-- How far the first sync accumulator's lookup moves the counter of free values before the second one reads it. -/
def drawsOfFirstLookup (n : Byte) : Nat := (chromaByPitch (keyOffset n 24)).isNone.toNat

/-- A start in fields, with the constants of this configuration; `draws` alone is left as it is. -/
theorem noteStart_eq_update (n v : Byte) (s : State) :
    noteStart params n v s =
      { s with
        acc := (s.acc.set 0 { s.acc[0] with inc := startIncrement n 24 s.draws }).set 1
          { s.acc[1] with inc := startIncrement n 17 (s.draws + drawsOfFirstLookup n) }
        env := s.env.set 0 { amp := BitVec.ofNat 16 (v.toNat * 256), dec := 1, div := 4, cnt := 0 }
        gate := .opened
        note := { num := n, vel := v }
        draws := (noteStart params n v s).draws } := by
  rw [← velocityAmp_eq_ofNat_mul]
  exact State.ext' (noteStart_acc ..) (noteStart_ovf ..) (noteStart_env ..) (noteStart_gate ..) (noteStart_note ..)
    (noteStart_mix ..) (noteStart_pwm ..) (noteStart_out ..) (noteStart_events ..) rfl

theorem exec_noteOn_of_pos {v : Byte} (h : 0 < v.toNat) (n : Byte) (s : State) :
    exec (.noteOn n v) s = .next (noteStart params n v s) := by
  rw [exec_noteOn, if_pos h]

/-! ### The bend (R194) -/

/-- The position a bend value gives: value - 8192, of the low 14 bits, is added modulo 2^16. -/
theorem add_bendDelta (pos a : Word) :
    pos + bendDelta params a = BitVec.ofInt 16 ((pos.toNat : Int) + (((a.toNat % 16384 : Nat) : Int) - 8192)) := by
  have hlow : (a.extractLsb' 0 14).toNat = a.toNat % 16384 := BitVec.extractLsb'_toNat 0 14 a
  rw [BitVec.ofInt_add, BitVec.ofInt_natCast, BitVec.ofNat_toNat, BitVec.setWidth_eq, bendDelta, hlow]
  rfl

theorem pitchBend_eq_update (p : Params) (a : Word) (s : State) :
    pitchBend p a s =
      { s with
        acc := (s.acc.set 0 { s.acc[0] with pos := s.acc[0].pos + bendDelta p a }).set 1
          { s.acc[1] with pos := s.acc[1].pos + bendDelta p a } } := by
  have hother : (modulate 0 (bendDelta p a) s).acc[(1 : Fin 4)] = s.acc[(1 : Fin 4)] := by
    rw [modulate, State.setPos_get, if_neg (by decide)]
  rw [pitchBend, modulate, State.setPos, hother]
  rfl

/-! ### The events that leave the note alone (R190) -/

/-- Gate and note of `t` are those of `s`. -/
def SameNote (s t : State) : Prop := t.gate = s.gate ∧ t.note = s.note

theorem SameNote.refl (s : State) : SameNote s s := ⟨rfl, rfl⟩

theorem sameNote_setIncLookup (s : State) (k : Fin 4) (l : Option Word) : SameNote s (setIncLookup k l s) :=
  ⟨setIncLookup_gate k l s, setIncLookup_note k l s⟩

/-- Outside `NOTE_ON` and `NOTE_OFF`, each operation an event applies keeps gate and note, and a reserved selector applies none. -/
theorem exec_sameNote {i : Instr} {s t : State} (hon : ∀ n v, i ≠ .noteOn n v) (hoff : ∀ n, i ≠ .noteOff n)
    (h : exec i s = .next t) : SameNote s t := by
  have hself := SameNote.refl s
  cases i with
  | nop => cases h; exact hself
  | tick => cases h; exact ⟨tick_gate params s, tick_note params s⟩
  | paSetinc sel a => cases h; exact onAcc_keeps hself fun _ => ⟨rfl, rfl⟩
  | paModulate sel a => cases h; exact onAcc_keeps hself fun _ => ⟨rfl, rfl⟩
  | paAdvance sel => cases h; exact onAcc_keeps hself fun _ => ⟨rfl, rfl⟩
  | paSetincChroma sel b => cases h; exact onAcc_keeps hself fun k => sameNote_setIncLookup s k _
  | paSetincAntilog sel a => cases h; exact onAcc_keeps hself fun k => sameNote_setIncLookup s k _
  | paSetincChromak sel a => cases h; exact onAcc_keeps hself fun k => sameNote_setIncLookup s k _
  | paSetincPenta sel a => cases h; exact onAcc_keeps hself fun k => sameNote_setIncLookup s k _
  | envReset sel a b c => cases h; exact onEnv_keeps hself fun _ => ⟨rfl, rfl⟩
  | envSetdecay sel b c => cases h; exact onEnv_keeps hself fun _ => ⟨rfl, rfl⟩
  | envTick sel => cases h; exact onEnv_keeps hself fun _ => ⟨rfl, rfl⟩
  | grReset sel => cases h; exact onGrain_keeps hself fun _ => ⟨rfl, rfl⟩
  | noteOn b c => exact absurd rfl (hon b c)
  | noteOff b => exact absurd rfl (hoff b)
  | pitchbend a => cases h; exact ⟨pitchBend_gate params a s, pitchBend_note params a s⟩

/-! ### The obligations -/

/-- Settles O45: a start, a release of the held key, one of another key, and every other event. -/
theorem noteStateMachine : Obligations.NoteStateMachine := by
  intro i s
  obtain ⟨t, ht⟩ := exec_completes i s
  refine ⟨t, ht, ?start, ?held, ?other, fun hon hoff => exec_sameNote hon hoff ht⟩
  case start =>
    rintro n v rfl hv
    obtain rfl : noteStart params n v s = t := outcome_next_inj ((exec_noteOn_of_pos hv n s).symm.trans ht)
    exact ⟨noteStart_gate params n v s, noteStart_note params n v s⟩
  case held =>
    intro n hi hn
    obtain rfl : noteRelease n s = t := outcome_next_inj ((exec_of_release hi).symm.trans ht)
    rw [noteRelease_of_held hn]
    exact ⟨rfl, rfl⟩
  case other =>
    intro n hi hn
    obtain rfl : noteRelease n s = t := outcome_next_inj ((exec_of_release hi).symm.trans ht)
    rw [noteRelease_of_ne hn]
    exact ⟨rfl, rfl⟩

/-- Settles O42: the start in fields, the two lookups inside the table, and the word. -/
theorem noteOnStartsTheNote : Obligations.NoteOnStartsTheNote := by
  refine ⟨fun n v s hv => ⟨startIncrement n 24 s.draws, startIncrement n 17 (s.draws + drawsOfFirstLookup n),
    (noteStart params n v s).draws, ?fields, fun p hp => startIncrement_of_toNat_eq hp _,
    fun p hp => startIncrement_of_toNat_eq hp _⟩, fun sel a n v => decodeWord_wordOf_of_wellFormed rfl⟩
  case fields => rw [exec_noteOn_of_pos hv, ← noteStart_eq_update]

/-- Settles O43: the release of the held key, of another key, the note-on with velocity zero, and the word. -/
theorem releaseOfTheHeldKeyClosesTheGate : Obligations.ReleaseOfTheHeldKeyClosesTheGate := by
  refine ⟨fun n s h => ?held, fun n s h => ?other, exec_noteOn_zero, fun sel a n c => decodeWord_wordOf_of_wellFormed rfl⟩
  case held => rw [exec_noteOff, noteRelease_of_held h]
  case other => rw [exec_noteOff, noteRelease_of_ne h]

/-- Settles O44: the bend of both positions in numbers, and the word. -/
theorem pitchbendOffsetsBothSyncPositions : Obligations.PitchbendOffsetsBothSyncPositions := by
  refine ⟨fun a s => ?bend, fun sel a b c => decodeWord_wordOf_of_wellFormed rfl⟩
  case bend => rw [exec_pitchbend, pitchBend_eq_update, add_bendDelta, add_bendDelta]

end Sys2Proof.Machine
end

section
/-! What an event can do to the state: one named operation of Machine/Ops.lean, chosen by the instruction alone and one that the table of
10_state.md R20 allows it. The statements about every instruction go through this list; and the reads of a register file after a write. -/

namespace Sys2Proof.Machine

/-! ### A register file after a write -/

section
variable {α β : Type} {n : Nat} {x y : Vector α n} {j k : Fin n} {v w : α}

theorem get_set_self : (x.set k v)[k] = v := Vector.getElem_set_self k.isLt

theorem get_set_of_ne (h : j ≠ k) : (x.set k v)[j] = x[j] :=
  Vector.getElem_set_ne k.isLt j.isLt fun e => h (Fin.ext e.symm)

/-- A field that the written element has as before, if it is the one read, is read as before. -/
theorem field_get_set (field : α → β) (h : j = k → field v = field x[k]) : field (x.set k v)[j] = field x[j] := by
  by_cases hjk : j = k
  · subst hjk; rw [get_set_self, h rfl]
  · rw [get_set_of_ne hjk]

/-- Two files that agree at an element still agree there when both are written at one place, the same value if it is that element. -/
theorem get_set_congr (hxy : x[j] = y[j]) (hvw : j = k → v = w) : (x.set k v)[j] = (y.set k w)[j] := by
  by_cases hjk : j = k
  · subst hjk; rw [get_set_self, get_set_self, hvw rfl]
  · rw [get_set_of_ne hjk, get_set_of_ne hjk, hxy]

/-- A property of every element is kept by writing an element that has it. -/
theorem forall_get_set {P : α → Prop} (hx : ∀ j : Fin n, P x[j]) (hv : P v) (j : Fin n) : P (x.set k v)[j] := by
  by_cases hjk : j = k
  · subst hjk; rw [get_set_self]; exact hv
  · rw [get_set_of_ne hjk]; exact hx j

end

/-! ### The operation of an instruction -/

/-- The operations instruction `i` can have, each with the rights of R20 it needs; with a selector that is not legal the instruction
has the operation of `NOP` (R76). -/
inductive Operation (i : Instr) : (State → State) → Prop where
  | nothing : Operation i id
  | tick : i = .tick → Operation i (tick params)
  | advance (k : Fin 4) : MayWritePos k i → MayWriteOvf k i → Operation i (advance k)
  | modulate (k : Fin 4) (d : Word) : MayWritePos k i → Operation i (modulate k d)
  | setInc (k : Fin 4) (lookup : Option Word) : MayWriteInc k i → Operation i (setIncLookup k lookup)
  | envReset (e : Fin 3) (a : Word) (d v : Byte) : MayWriteLevel e i → MayWriteDecay e i →
      (KeepsContract i → a.toNat ≤ 0x7FFF) → Operation i (envReset e a d v)
  | setDecay (e : Fin 3) (d v : Byte) : MayWriteDecay e i → Operation i (setDecay e d v)
  | envTick (e : Fin 3) : MayWriteLevel e i → Operation i (envTick e)
  | grainReset (g : Fin 2) : MayWritePos (grainAcc g) i → MayWriteLevel (grainEnv g) i → Operation i (grainReset params g)
  | noteStart (b c : Byte) : MayWriteInc 0 i → MayWriteInc 1 i → MayWriteLevel 0 i → MayWriteDecay 0 i →
      (KeepsContract i → c.toNat ≤ 127) → Operation i (noteStart params b c)
  | noteRelease (b : Byte) : Operation i (noteRelease b)
  | pitchBend (a : Word) : MayWritePos 0 i → MayWritePos 1 i → Operation i (pitchBend params a)

/-! With a selector: the operation on the element it names, or that of `NOP`. -/

section
variable {i : Instr} {sel : Byte}

theorem operation_onAcc {f : Fin 4 → State → State} (hf : ∀ k : Fin 4, sel.toNat = k.val → Operation i (f k)) :
    Operation i (onAcc sel f) := by
  unfold onAcc
  cases hk : accOf sel with
  | some k => exact hf k (accOf_val hk)
  | none => exact .nothing

theorem operation_onEnv {f : Fin 3 → State → State} (hf : ∀ e : Fin 3, sel.toNat = e.val → Operation i (f e)) :
    Operation i (onEnv sel f) := by
  unfold onEnv
  cases he : envOf sel with
  | some e => exact hf e (envOf_val he)
  | none => exact .nothing

theorem operation_onGrain {f : Fin 2 → State → State} (hf : ∀ g : Fin 2, sel.toNat = g.val → Operation i (f g)) :
    Operation i (onGrain sel f) := by
  unfold onGrain
  cases hg : grainOf sel with
  | some g => exact hf g (grainOf_val hg)
  | none => exact .nothing

end

/-- Every instruction is one operation, the same in every state. -/
theorem exec_operation (i : Instr) : ∃ f, Operation i f ∧ ∀ s, exec i s = .next (f s) := by
  cases i with
  | nop => exact ⟨id, .nothing, exec_nop⟩
  | tick => exact ⟨_, .tick rfl, exec_tick⟩
  | paSetinc sel a => exact ⟨_, operation_onAcc fun k h => .setInc k (some a) h, exec_paSetinc sel a⟩
  | paModulate sel a => exact ⟨_, operation_onAcc fun k h => .modulate k a h, exec_paModulate sel a⟩
  | paAdvance sel => exact ⟨_, operation_onAcc fun k h => .advance k h h, exec_paAdvance sel⟩
  | paSetincChroma sel b => exact ⟨_, operation_onAcc fun k h => .setInc k _ h, exec_paSetincChroma sel b⟩
  | paSetincAntilog sel a => exact ⟨_, operation_onAcc fun k h => .setInc k _ h, exec_paSetincAntilog sel a⟩
  | paSetincChromak sel a => exact ⟨_, operation_onAcc fun k h => .setInc k _ h, exec_paSetincChromak sel a⟩
  | paSetincPenta sel a => exact ⟨_, operation_onAcc fun k h => .setInc k _ h, exec_paSetincPenta sel a⟩
  | envReset sel a b c => exact ⟨_, operation_onEnv fun e h => .envReset e a b c h h id, exec_envReset sel a b c⟩
  | envSetdecay sel b c => exact ⟨_, operation_onEnv fun e h => .setDecay e b c h, exec_envSetdecay sel b c⟩
  | envTick sel => exact ⟨_, operation_onEnv fun e h => .envTick e h, exec_envTick sel⟩
  | grReset sel =>
    refine ⟨_, operation_onGrain fun g h => .grainReset g ?pos ?level, exec_grReset sel⟩
    case pos => show sel.toNat + 2 = 2 + g.val; omega
    case level => show sel.toNat + 1 = 1 + g.val; omega
  | noteOn b c =>
    by_cases hc : 0 < c.toNat
    · exact ⟨_, .noteStart b c ⟨hc, by decide⟩ ⟨hc, by decide⟩ ⟨hc, rfl⟩ ⟨hc, rfl⟩ id, exec_noteOn_of_pos hc b⟩
    · exact ⟨_, .noteRelease b, fun s => by rw [exec_noteOn, if_neg hc]⟩
  | noteOff b => exact ⟨_, .noteRelease b, exec_noteOff b⟩
  | pitchbend a => exact ⟨_, .pitchBend a (show 0 < 2 by decide) (show 1 < 2 by decide), exec_pitchbend a⟩

end Sys2Proof.Machine
end

section
/-! Encoding and the step: an encoding is its row (30_encoding.md R70, R73), and a step is the operation of the next event or none
(00_scope.md R11, 60_exceptions.md R210, R222). -/

namespace Sys2Proof.Machine

/-! ### Encoding (R70, R71, R73) -/

/-- The opcode of an encoding selects the instruction's own row, and the row reads the operands back. -/
theorem rowOf_encodeFields (i : Instr) : rowOf (encodeFields i) = i := by cases i <;> rfl

theorem decodeWord_encode_of_wellFormed {i : Instr} (h : i.wellFormed = true) : decodeWord (encode i) = i := by
  have hrow := rowOf_encodeFields i
  rw [decodeWord_encode, decodeFields_of_wellFormed (hrow.symm ▸ h), hrow]

/-- Settles O1: the row of the encoded fields is the instruction, and the bytes of a word decode to the word's meaning. -/
theorem encodedInstructionDecodesBack : Obligations.EncodedInstructionDecodesBack := by
  intro i rest h
  have hword := decodeWord_encode_of_wellFormed h
  refine ⟨hword, ?bytes⟩
  case bytes => rw [encodeBytes, decode_bytesOfWord, hword]

theorem encode_toNat (i : Instr) :
    (encode i).toNat = (encodeFields i).op.toNat * 2 ^ 40 + (encodeFields i).sel.toNat * 2 ^ 32 + (encodeFields i).a.toNat * 2 ^ 16 +
      (encodeFields i).b.toNat * 2 ^ 8 + (encodeFields i).c.toNat := wordOf_toNat (encodeFields i)

/-- Settles O2: the fields by their places, with the zeros of each format dropped. -/
theorem encodingPlacesTheFields : Obligations.EncodingPlacesTheFields := by
  unfold Obligations.EncodingPlacesTheFields
  simp [encode_toNat, encodeFields]

/-- Settles O3: the decoder evaluated on the nine inputs. -/
theorem wordsOfTheSpecDecode : Obligations.WordsOfTheSpecDecode := by
  unfold Obligations.WordsOfTheSpecDecode
  decide

/-! ### The step (R11, R210, R222) -/

/-- A state property kept by the operation of the next event is kept by a step. -/
theorem step_keeps {P : State → Prop} {s t : State} (hs : P s) (hstep : step s = .next t)
    (hop : ∀ w rest f, s.events = w :: rest → Operation (decodeWord w) f → P (f { s with events := rest })) : P t := by
  rcases step_cases s with ⟨-, hidle⟩ | ⟨w, rest, hevents, hexec⟩
  · obtain rfl : s = t := outcome_next_inj (hidle.symm.trans hstep)
    exact hs
  · obtain ⟨f, hf, hnext⟩ := exec_operation (decodeWord w)
    obtain rfl : f { s with events := rest } = t := outcome_next_inj ((hnext _).symm.trans (hexec.symm.trans hstep))
    exact hop w rest f hevents hf

/-- No event reads or writes the sequence of events (log 1). -/
theorem Operation.events {i : Instr} {f : State → State} (h : Operation i f) (s : State) : (f s).events = s.events := by
  cases h with
  | tick => exact tick_events params s
  | setInc k lookup => exact setIncLookup_events k lookup s
  | noteStart b c => exact noteStart_events params b c s
  | noteRelease b => exact noteRelease_events b s
  | pitchBend a => exact pitchBend_events params a s
  | _ => rfl

/-- A step takes one event off the sequence, where there is one. -/
theorem step_completes (s : State) : ∃ t, step s = .next t ∧ t.events = s.events.drop 1 := by
  rcases step_cases s with ⟨hevents, hidle⟩ | ⟨w, rest, hevents, hexec⟩
  · exact ⟨s, hidle, by rw [hevents]; rfl⟩
  · obtain ⟨f, hf, hnext⟩ := exec_operation (decodeWord w)
    exact ⟨_, hexec.trans (hnext _), by rw [hf.events, hevents]; rfl⟩

theorem run_completes (n : Nat) (s : State) : ∃ t, RunsTo n s t ∧ t.events = s.events.drop n := by
  induction n generalizing s with
  | zero => exact ⟨s, runsTo_zero.2 rfl, rfl⟩
  | succ n ih =>
    obtain ⟨u, hstep, hu⟩ := step_completes s
    obtain ⟨t, hrun, ht⟩ := ih u
    exact ⟨t, (runsTo_succ hstep).2 hrun, by rw [ht, hu, List.drop_drop, Nat.add_comm]⟩

/-- Settles O10: every instruction is an operation on the state, none of which touches the sequence; then the induction on the
number of steps. -/
theorem everyRunCompletes : Obligations.EveryRunCompletes := by
  refine ⟨fun i s => ?event, run_completes⟩
  case event =>
    obtain ⟨f, hf, hnext⟩ := exec_operation i
    exact ⟨f s, hnext s, hf.events s⟩

theorem tableWord_48 (n : Nat) : tableWord 48 n = BitVec.ofNat 48 n := by
  apply BitVec.eq_of_toNat_eq
  rw [tableWord, BitVec.toNat_ofNat, BitVec.toNat_ofNat, Nat.mod_mod]

/-- Settles O8: the next event is the first of the sequence, an encoding decodes back, and a row's word is its 48 bits. -/
theorem stepRunsTheDecodedEvent : Obligations.StepRunsTheDecodedEvent := by
  refine ⟨fun s w rest => step_cons rfl, fun s i rest h => ?encoded, fun s n => ?fetched⟩
  case encoded => rw [step_cons rfl, decodeWord_encode_of_wellFormed h]
  case fetched => rw [step_withFetchWord, tableWord_48]

/-- Settles O9: no event is waiting. -/
theorem idleStepHoldsTheState : Obligations.IdleStepHoldsTheState := fun _ => step_nil rfl

end Sys2Proof.Machine
end

section
/-! One tick, element by element (43_mixer_tick.md R145 to R154): what the seven steps leave in the accumulators, flags and envelopes of
each grain, and the bound of the mix. -/

namespace Sys2Proof.Machine

section
variable (p : Params) (g : Fin 2) (s : State)

/-! ### The accumulators and flags (R146 to R148) -/

theorem tick_acc_sync : (tick p s).acc[syncAcc g] = ⟨s.acc[syncAcc g].pos + s.acc[syncAcc g].inc, s.acc[syncAcc g].inc⟩ := by
  rw [tick_acc]
  match g with
  | 0 | 1 => simp

theorem tick_acc_grain : (tick p s).acc[grainAcc g] = ⟨grainStart g s + s.acc[grainAcc g].inc, s.acc[grainAcc g].inc⟩ := by
  rw [tick_acc]
  match g with
  | 0 | 1 => simp

theorem tick_ovf_sync : (tick p s).ovf[syncAcc g] = syncWraps g s := by
  rw [tick_ovf]
  match g with
  | 0 | 1 => simp

theorem tick_ovf_grain : (tick p s).ovf[grainAcc g] = wrapped (grainStart g s) (grainStart g s + s.acc[grainAcc g].inc) := by
  rw [tick_ovf]
  match g with
  | 0 | 1 => simp

/-! ### The envelopes (R147, R150, R151) -/

theorem tick_env_grain : (tick p s).env[grainEnv g] = (envelopeStart p g s).tick := by
  rw [tick_env]
  match g with
  | 0 | 1 => simp

theorem tick_env_master : (tick p s).env[0] = if s.gate = .closed then s.env[0].tick else s.env[0] := by
  rw [tick_env]
  simp

/-! ### A grain with and without a retrigger (R147) -/

variable {g s}

theorem grainStart_of_wraps (h : syncWraps g s = true) : grainStart g s = 0 := if_pos h

theorem grainStart_of_not_wraps (h : ¬ syncWraps g s = true) : grainStart g s = s.acc[grainAcc g].pos := if_neg h

theorem envelopeStart_of_wraps (h : syncWraps g s = true) :
    envelopeStart p g s = { s.env[grainEnv g] with amp := p.grainFullScale, cnt := 0 } := if_pos h

theorem envelopeStart_of_not_wraps (h : ¬ syncWraps g s = true) : envelopeStart p g s = s.env[grainEnv g] := if_neg h

end

/-- A position of 0 is passed by no advance: the sum is not below it. -/
theorem wrapped_zero (y : Word) : wrapped 0 y = false := decide_eq_false (Nat.not_lt_zero _)

/-- The mix, for any naming of the two amplitudes before step 5 (R149). -/
theorem tick_mix_of_amps (p : Params) (s : State) {a : Fin 2 → Word} (ha : ∀ g, a g = (envelopeStart p g s).amp) :
    (tick p s).mix = BitVec.ofNat 16
      ((p.wave (waveIndex (tick p s).acc[grainAcc 0].pos)).toNat * ((a 0).toNat / 256) +
        (p.wave (waveIndex (tick p s).acc[grainAcc 1].pos)).toNat * ((a 1).toNat / 256)) := by
  rw [tick_mix, tick_acc_grain, tick_acc_grain, ha, ha, highByte_toNat, highByte_toNat]
  rfl

/-- Settles O28: each field of the tick, with `syncWraps` read as the overflow of the true sum. -/
theorem tickRunsTheSevenSteps : Obligations.TickRunsTheSevenSteps := by
  refine ⟨exec_tick, fun p s => ?_⟩
  simp only [← syncWraps_iff]
  refine ⟨fun g => ⟨tick_acc_sync p g s, by rw [tick_ovf_sync]⟩, fun g hwraps => ⟨?acc0, ?ovf0⟩, fun g hholds => ⟨?acc, ?ovf⟩,
    fun g hwraps => ?env0, fun g hholds => ?env, fun a hwraps hholds => tick_mix_of_amps p s fun g => ?amp, fun hgate => ?closed,
    fun hgate => ?opened, tick_pwm p s, tick_out p s, tick_gate p s, tick_note p s, tick_events p s, tick_draws p s⟩
  case acc0 => rw [tick_acc_grain, grainStart_of_wraps hwraps, zero_add]
  case ovf0 => rw [tick_ovf_grain, grainStart_of_wraps hwraps, wrapped_zero]
  case acc => rw [tick_acc_grain, grainStart_of_not_wraps hholds]
  case ovf => rw [tick_ovf_grain, grainStart_of_not_wraps hholds, wrapped_add_iff]
  case env0 => rw [tick_env_grain, envelopeStart_of_wraps p hwraps]
  case env => rw [tick_env_grain, envelopeStart_of_not_wraps p hholds]
  case amp =>
    by_cases h : syncWraps g s = true
    · rw [hwraps g h, envelopeStart_of_wraps p h]
    · rw [hholds g h, envelopeStart_of_not_wraps p h]
  case closed => rw [tick_env_master, if_pos hgate]
  case opened => rw [tick_env_master, if_neg (by rw [hgate]; decide)]

/-! ### A grain never resets itself (R136) -/

theorem not_syncWraps {g : Fin 2} {s : State} (h : s.acc[syncAcc g].pos.toNat + s.acc[syncAcc g].inc.toNat < 65536) :
    ¬ syncWraps g s = true := by
  rw [syncWraps_iff]
  exact h.not_ge

theorem onAcc_advance_env (sel : Byte) (s : State) : (onAcc sel advance s).env = s.env :=
  onAcc_keeps (P := fun t => t.env = s.env) rfl fun _ => rfl

theorem envTick_amp_le (e j : Fin 3) (s : State) : (envTick e s).env[j].amp.toNat ≤ s.env[j].amp.toNat := by
  rw [envTick, State.setEnv_get]
  split
  case isTrue h => rw [h]; exact Envelope.tick_amp_le _
  case isFalse => exact le_rfl

/-- Settles O29: a tick starts a grain that is not retriggered from where it stood, and the two commands reach one register file each. -/
theorem grainNeverResetsItself : Obligations.GrainNeverResetsItself := by
  intro g s
  refine ⟨fun hsum => ⟨_, exec_tick s, ?pos, ?amp⟩, fun sel => ⟨_, exec_paAdvance sel s, onAcc_advance_env sel s⟩,
    fun sel => ⟨_, exec_envTick sel s, ?envTick⟩⟩
  case pos => rw [tick_acc_grain, grainStart_of_not_wraps (not_syncWraps hsum)]
  case amp =>
    rw [tick_env_grain, envelopeStart_of_not_wraps params (not_syncWraps hsum)]
    exact Envelope.tick_amp_le _
  case envTick =>
    exact onEnv_keeps (P := fun t => t.acc = s.acc ∧ t.env[grainEnv g].amp.toNat ≤ s.env[grainEnv g].amp.toNat) ⟨rfl, le_rfl⟩
      fun e => ⟨rfl, envTick_amp_le e (grainEnv g) s⟩

/-! ### The mixing bound (R154) -/

/-- A wave value times the high byte of an amplitude in the contract. -/
theorem mul_highByte_le (w : Byte) {a : Word} (ha : a.toNat ≤ 0x7FFF) : w.toNat * (highByte a).toNat ≤ 32385 := by
  have hw : w.toNat ≤ 255 := Nat.le_of_lt_succ w.isLt
  have hhigh : (highByte a).toNat ≤ 127 := by
    rw [highByte_toNat]
    omega
  exact Nat.mul_le_mul hw hhigh

section
variable (p : Params) {s : State}

theorem sample_add_sample_le (h0 : s.env[1].amp.toNat ≤ 0x7FFF) (h1 : s.env[2].amp.toNat ≤ 0x7FFF) :
    sample p 0 s + sample p 1 s ≤ 64770 :=
  Nat.add_le_add (sample_le p 0 s h0) (sample_le p 1 s h1)

theorem tickMix_toNat (h0 : s.env[1].amp.toNat ≤ 0x7FFF) (h1 : s.env[2].amp.toNat ≤ 0x7FFF) :
    (tickMix p s).mix.toNat = sample p 0 s + sample p 1 s := by
  have hle := sample_add_sample_le p h0 h1
  rw [tickMix, State.setMix_mix, BitVec.toNat_ofNat]
  exact Nat.mod_eq_of_lt (by omega)

variable (hfull : p.grainFullScale.toNat ≤ 0x7FFF)
include hfull

/-- A retrigger loads the full scale, so it keeps the bound of the amplitude. -/
theorem envelopeStart_amp_le {g : Fin 2} (h : s.env[grainEnv g].amp.toNat ≤ 0x7FFF) : (envelopeStart p g s).amp.toNat ≤ 0x7FFF := by
  unfold envelopeStart
  split
  · exact hfull
  · exact h

theorem tick_mix_le (h0 : s.env[1].amp.toNat ≤ 0x7FFF) (h1 : s.env[2].amp.toNat ≤ 0x7FFF) : (tick p s).mix.toNat ≤ 64770 := by
  rw [tick_mix, BitVec.toNat_ofNat]
  exact (Nat.mod_le _ _).trans
    (Nat.add_le_add (mul_highByte_le _ (envelopeStart_amp_le p hfull h0)) (mul_highByte_le _ (envelopeStart_amp_le p hfull h1)))

end

/-- Settles O32: the bound of the two samples, and of the mix of a whole tick, retriggered or not. -/
theorem mixingNeverOverflowsInContract : Obligations.MixingNeverOverflowsInContract :=
  ⟨fun p _ h0 h1 => ⟨sample_add_sample_le p h0 h1, tickMix_toNat p h0 h1⟩, fun p _ hfull h0 h1 => tick_mix_le p hfull h0 h1⟩

end Sys2Proof.Machine
end

section
/-! Who writes what (10_state.md R20, column "written by"; R22, R25, R27): each field of the register files is left by every operation
without the right to write it. -/

namespace Sys2Proof.Machine

/-- An element without a right is not the one written with it. -/
theorem ne_of_right {α : Type} {right : α → Instr → Prop} {i : Instr} {j k : α} (hj : ¬ right j i) (hk : right k i) : j ≠ k :=
  fun e => hj (e ▸ hk)

/-! ### The accumulators and flags -/

section
variable (k : Fin 4) (s : State)

/-- A table-driven increment leaves every position. -/
theorem setIncLookup_pos (j : Fin 4) (lookup : Option Word) : (setIncLookup j lookup s).acc[k].pos = s.acc[k].pos := by
  rw [setIncLookup_acc_eq]
  exact field_get_set PhaseAcc.pos fun _ => rfl

theorem setIncLookup_get_of_ne {j : Fin 4} (h : k ≠ j) (lookup : Option Word) : (setIncLookup j lookup s).acc[k] = s.acc[k] := by
  rw [setIncLookup_acc_eq, get_set_of_ne h]

/-- A modulation leaves every increment. -/
theorem modulate_inc (j : Fin 4) (d : Word) : (modulate j d s).acc[k].inc = s.acc[k].inc := by
  rw [modulate_acc]
  exact field_get_set PhaseAcc.inc fun _ => rfl

theorem modulate_get_of_ne {j : Fin 4} (h : k ≠ j) (d : Word) : (modulate j d s).acc[k] = s.acc[k] := by
  rw [modulate_acc, get_set_of_ne h]

theorem tick_inc_sync (p : Params) (g : Fin 2) : (tick p s).acc[syncAcc g].inc = s.acc[syncAcc g].inc := by rw [tick_acc_sync]

theorem tick_inc_grain (p : Params) (g : Fin 2) : (tick p s).acc[grainAcc g].inc = s.acc[grainAcc g].inc := by rw [tick_acc_grain]

/-- A tick leaves every increment. -/
theorem tick_inc (p : Params) : (tick p s).acc[k].inc = s.acc[k].inc := by
  match k with
  | 0 => exact tick_inc_sync s p 0
  | 1 => exact tick_inc_sync s p 1
  | 2 => exact tick_inc_grain s p 0
  | 3 => exact tick_inc_grain s p 1

variable {k} {i : Instr} {f : State → State}

theorem Operation.pos_frame (h : Operation i f) (hk : ¬ MayWritePos k i) : (f s).acc[k].pos = s.acc[k].pos := by
  cases h with
  | nothing => rfl
  | tick hi => subst hi; exact absurd trivial hk
  | advance j hj => rw [advance_acc, get_set_of_ne (ne_of_right hk hj)]
  | modulate j d hj => rw [modulate_get_of_ne k s (ne_of_right hk hj)]
  | setInc j lookup => exact setIncLookup_pos k s j lookup
  | grainReset g hj => rw [grainReset_acc, get_set_of_ne (ne_of_right hk hj)]
  | noteStart b c => exact (setIncLookup_pos k _ 1 _).trans (setIncLookup_pos k _ 0 _)
  | noteRelease b => rw [noteRelease_acc]
  | pitchBend a h0 h1 =>
    rw [Machine.pitchBend, modulate_get_of_ne k _ (ne_of_right hk h1), modulate_get_of_ne k s (ne_of_right hk h0)]
  | envReset | setDecay | envTick => rfl

theorem Operation.inc_frame (h : Operation i f) (hk : ¬ MayWriteInc k i) : (f s).acc[k].inc = s.acc[k].inc := by
  cases h with
  | nothing => rfl
  | tick => exact tick_inc k s params
  | advance j => rw [advance_acc]; exact field_get_set PhaseAcc.inc fun _ => rfl
  | modulate j d => exact modulate_inc k s j d
  | setInc j lookup hj => rw [setIncLookup_get_of_ne k s (ne_of_right hk hj)]
  | grainReset g => rw [grainReset_acc]; exact field_get_set PhaseAcc.inc fun _ => rfl
  | noteStart b c h0 h1 =>
    rw [Machine.noteStart, setIncLookup_get_of_ne k _ (ne_of_right hk h1), setIncLookup_get_of_ne k _ (ne_of_right hk h0)]
    rfl
  | noteRelease b => rw [noteRelease_acc]
  | pitchBend a => exact (modulate_inc k _ 1 _).trans (modulate_inc k s 0 _)
  | envReset | setDecay | envTick => rfl

theorem Operation.ovf_frame (h : Operation i f) (hk : ¬ MayWriteOvf k i) : (f s).ovf[k] = s.ovf[k] := by
  cases h with
  | tick hi => subst hi; exact absurd trivial hk
  | advance j _ hj => rw [advance_ovf, get_set_of_ne (ne_of_right hk hj)]
  | setInc j lookup => rw [setIncLookup_ovf]
  | noteStart b c => rw [noteStart_ovf]
  | noteRelease b => rw [noteRelease_ovf]
  | pitchBend a => rw [pitchBend_ovf]
  | nothing | modulate | grainReset | envReset | setDecay | envTick => rfl

end

/-- Settles O46: the frames of position, increment and flag for the operation of the instruction. -/
theorem accumulatorFrames : Obligations.AccumulatorFrames := by
  intro i s k
  obtain ⟨f, hf, hnext⟩ := exec_operation i
  exact ⟨f s, hnext s, hf.pos_frame s, hf.inc_frame s, hf.ovf_frame s⟩

/-! ### The envelopes -/

section
variable (p : Params) (e : Fin 3) (s : State)

/-- A retrigger leaves the decay parameters (R131). -/
theorem envelopeStart_decay (g : Fin 2) :
    (envelopeStart p g s).dec = s.env[grainEnv g].dec ∧ (envelopeStart p g s).div = s.env[grainEnv g].div := by
  unfold envelopeStart
  split <;> exact ⟨rfl, rfl⟩

theorem tick_decay_grain (g : Fin 2) :
    (tick p s).env[grainEnv g].dec = s.env[grainEnv g].dec ∧ (tick p s).env[grainEnv g].div = s.env[grainEnv g].div := by
  rw [tick_env_grain, Envelope.tick_dec, Envelope.tick_div]
  exact envelopeStart_decay p s g

/-- A tick leaves every decay parameter. -/
theorem tick_decay : (tick p s).env[e].dec = s.env[e].dec ∧ (tick p s).env[e].div = s.env[e].div := by
  match e with
  | 0 =>
    show (tick p s).env[0].dec = s.env[0].dec ∧ (tick p s).env[0].div = s.env[0].div
    rw [tick_env_master]
    split
    · exact ⟨Envelope.tick_dec _, Envelope.tick_div _⟩
    · exact ⟨rfl, rfl⟩
  | 1 => exact tick_decay_grain p s 0
  | 2 => exact tick_decay_grain p s 1

variable {e} {i : Instr} {f : State → State}

theorem Operation.level_frame (h : Operation i f) (he : ¬ MayWriteLevel e i) :
    (f s).env[e].amp = s.env[e].amp ∧ (f s).env[e].cnt = s.env[e].cnt := by
  cases h with
  | tick hi => subst hi; exact absurd trivial he
  | setInc j lookup => rw [setIncLookup_env]; exact ⟨rfl, rfl⟩
  | envReset j a d v hj => rw [envReset_env, get_set_of_ne (ne_of_right he hj)]; exact ⟨rfl, rfl⟩
  | setDecay j d v =>
    rw [setDecay_env]
    exact ⟨field_get_set Envelope.amp fun _ => rfl, field_get_set Envelope.cnt fun _ => rfl⟩
  | envTick j hj => rw [envTick_env, get_set_of_ne (ne_of_right he hj)]; exact ⟨rfl, rfl⟩
  | grainReset g _ hj => rw [grainReset_env, get_set_of_ne (ne_of_right he hj)]; exact ⟨rfl, rfl⟩
  | noteStart b c _ _ h0 =>
    have hne : e ≠ 0 := ne_of_right he h0
    rw [noteStart_env]
    exact ⟨congrArg Envelope.amp (get_set_of_ne hne), congrArg Envelope.cnt (get_set_of_ne hne)⟩
  | noteRelease b => rw [noteRelease_env]; exact ⟨rfl, rfl⟩
  | pitchBend a => rw [pitchBend_env]; exact ⟨rfl, rfl⟩
  | nothing | advance | modulate => exact ⟨rfl, rfl⟩

theorem Operation.decay_frame (h : Operation i f) (he : ¬ MayWriteDecay e i) :
    (f s).env[e].dec = s.env[e].dec ∧ (f s).env[e].div = s.env[e].div := by
  cases h with
  | tick => exact tick_decay params e s
  | setInc j lookup => rw [setIncLookup_env]; exact ⟨rfl, rfl⟩
  | envReset j a d v _ hj => rw [envReset_env, get_set_of_ne (ne_of_right he hj)]; exact ⟨rfl, rfl⟩
  | setDecay j d v hj => rw [setDecay_env, get_set_of_ne (ne_of_right he hj)]; exact ⟨rfl, rfl⟩
  | envTick j =>
    rw [envTick_env]
    exact ⟨field_get_set Envelope.dec fun _ => Envelope.tick_dec _, field_get_set Envelope.div fun _ => Envelope.tick_div _⟩
  | grainReset g =>
    rw [grainReset_env]
    exact ⟨field_get_set Envelope.dec fun _ => rfl, field_get_set Envelope.div fun _ => rfl⟩
  | noteStart b c _ _ _ h0 =>
    have hne : e ≠ 0 := ne_of_right he h0
    rw [noteStart_env]
    exact ⟨congrArg Envelope.dec (get_set_of_ne hne), congrArg Envelope.div (get_set_of_ne hne)⟩
  | noteRelease b => rw [noteRelease_env]; exact ⟨rfl, rfl⟩
  | pitchBend a => rw [pitchBend_env]; exact ⟨rfl, rfl⟩
  | nothing | advance | modulate => exact ⟨rfl, rfl⟩

end

/-- Settles O47: the frames of level and decay parameters for the operation of the instruction. -/
theorem envelopeFrames : Obligations.EnvelopeFrames := by
  intro i s e
  obtain ⟨f, hf, hnext⟩ := exec_operation i
  exact ⟨f s, hnext s, hf.level_frame s, hf.decay_frame s⟩

/-! ### The output (R153, R30) -/

/-- An operation is the tick, or leaves the mix, the output register and the trace of every state. -/
theorem Operation.output_cases {i : Instr} {f : State → State} (h : Operation i f) :
    i = .tick ∧ f = Machine.tick params ∨ ∀ s, (f s).out = s.out ∧ (f s).pwm = s.pwm ∧ (f s).mix = s.mix := by
  cases h with
  | tick hi => exact .inl ⟨hi, rfl⟩
  | setInc j lookup => exact .inr fun s => ⟨setIncLookup_out .., setIncLookup_pwm .., setIncLookup_mix ..⟩
  | noteStart b c => exact .inr fun s => ⟨noteStart_out .., noteStart_pwm .., noteStart_mix ..⟩
  | noteRelease b => exact .inr fun s => ⟨noteRelease_out .., noteRelease_pwm .., noteRelease_mix ..⟩
  | pitchBend a => exact .inr fun s => ⟨pitchBend_out .., pitchBend_pwm .., pitchBend_mix ..⟩
  | _ => exact .inr fun s => ⟨rfl, rfl, rfl⟩

theorem pwmValidPulses_tick (p : Params) (s : State) : pwmValidPulses s (tick p s) = 1 := by
  rw [pwmValidPulses, tick_out, List.length_append, Nat.add_sub_cancel_left, List.length_singleton]

/-- Settles O33: the write of a tick, and the frame of every other operation. -/
theorem onlyTickWritesTheOutput : Obligations.OnlyTickWritesTheOutput := by
  intro i s
  obtain ⟨f, hf, hnext⟩ := exec_operation i
  by_cases hi : i = .tick
  · subst hi
    exact ⟨_, exec_tick s, fun _ => ⟨tick_out params s, tick_pwm params s, pwmValidPulses_tick params s⟩, fun h => absurd rfl h⟩
  · obtain ⟨htick, -⟩ | hframe := hf.output_cases
    · exact absurd htick hi
    · obtain ⟨hout, hpwm, hmix⟩ := hframe s
      refine ⟨f s, hnext s, fun h => absurd h hi, fun _ => ⟨hout, hpwm, hmix, ?pulses⟩⟩
      case pulses => rw [pwmValidPulses, hout, Nat.sub_self]

end Sys2Proof.Machine
end

section
/-! The invariants of every step (10_state.md R30, R37; 41_envelope.md R121), and that they hold at reset (R36, R230). -/

namespace Sys2Proof.Machine

/-! ### The envelopes under any operation -/

section
variable {P : Envelope → Prop} {s : State}

/-- A tick keeps a property of every envelope that a tick of one and the load of full scale keep (R147, R150, R151). -/
theorem tick_keeps_env (p : Params) (hs : ∀ e : Fin 3, P s.env[e]) (htick : ∀ v, P v → P v.tick)
    (hfull : ∀ v, P v → P { v with amp := p.grainFullScale, cnt := 0 }) (e : Fin 3) : P (tick p s).env[e] := by
  have hstart (g : Fin 2) : P (envelopeStart p g s) := by
    unfold envelopeStart
    split
    · exact hfull _ (hs (grainEnv g))
    · exact hs (grainEnv g)
  have hmaster : P (if s.gate = .closed then s.env[0].tick else s.env[0]) := by
    split
    · exact htick _ (hs 0)
    · exact hs 0
  rw [tick_env]
  exact forall_get_set (k := 0)
    (forall_get_set (k := 2) (forall_get_set (k := 1) hs (htick _ (hstart 0))) (htick _ (hstart 1))) hmaster e

/-- So does the operation of an instruction, if what it loads has the property too. -/
theorem Operation.keeps_env {i : Instr} {f : State → State} (h : Operation i f) (hs : ∀ e : Fin 3, P s.env[e])
    (htick : ∀ v, P v → P v.tick) (hfull : ∀ v, P v → P { v with amp := params.grainFullScale, cnt := 0 })
    (hload : ∀ a d v, (KeepsContract i → a.toNat ≤ 0x7FFF) → P ⟨a, d, v, 0⟩)
    (hdecay : ∀ (v : Envelope) (d w : Byte), P v → P { v with dec := d, div := w }) : ∀ e : Fin 3, P (f s).env[e] := by
  cases h with
  | tick => exact tick_keeps_env params hs htick hfull
  | setInc k lookup => rw [setIncLookup_env]; exact hs
  | envReset e a d v _ _ hbound => exact forall_get_set hs (hload a d v hbound)
  | setDecay e d v => exact forall_get_set hs (hdecay _ d v (hs e))
  | envTick e => exact forall_get_set hs (htick _ (hs e))
  | grainReset g => exact forall_get_set hs (hfull _ (hs (grainEnv g)))
  | noteStart b c _ _ _ _ hbound =>
    rw [noteStart_env]
    refine forall_get_set (k := 0) hs (hload _ _ _ fun hi => ?velocity)
    case velocity =>
      have hc := hbound hi
      rw [velocityAmp_eq_ofNat_mul, BitVec.toNat_ofNat]
      omega
  | noteRelease b => rw [noteRelease_env]; exact hs
  | pitchBend a => rw [pitchBend_env]; exact hs
  | nothing | advance | modulate => exact hs

end

/-! ### The counters (R121) -/

/-- Settles O49: a tick of an envelope leaves its counter at most 254, and every load clears it. -/
theorem stepKeepsCountersBelowWrap : Obligations.StepKeepsCountersBelowWrap := by
  intro s t hs hstep
  refine step_keeps hs hstep fun w rest f _ hf => ?_
  exact hf.keeps_env (P := fun v => v.cnt.toNat ≤ 254) hs (fun v _ => v.tick_cnt_le) (fun _ _ => Nat.zero_le _)
    (fun _ _ _ _ => Nat.zero_le _) fun _ _ _ hv => hv

/-! ### The output register (R30) -/

/-- A tick appends the sample it writes. -/
theorem outputShowsTrace_tick (p : Params) (s : State) : OutputShowsTrace (tick p s) := by
  rw [OutputShowsTrace, tick_out, List.getLast?_concat, Option.getD_some]

/-- Settles O50: a tick appends what it writes, and every other operation leaves both. -/
theorem stepKeepsOutputShowingTheTrace : Obligations.StepKeepsOutputShowingTheTrace := by
  intro s t hs hstep
  refine ⟨step_keeps hs hstep fun w rest f _ hf => ?keeps, rfl⟩
  case keeps =>
    obtain ⟨-, rfl⟩ | hframe := hf.output_cases
    · exact outputShowsTrace_tick params _
    · obtain ⟨hout, hpwm, -⟩ := hframe { s with events := rest }
      rw [OutputShowsTrace, hout, hpwm]
      exact hs

/-! ### The contract (R37) -/

/-- Every amplitude loaded within the contract is in the bound, full scale among them, and none rises. -/
theorem Operation.keeps_amps {i : Instr} {f : State → State} (h : Operation i f) (hi : KeepsContract i) {s : State}
    (hs : AmplitudesInRange s) : AmplitudesInRange (f s) :=
  h.keeps_env (P := fun v => v.amp.toNat ≤ 0x7FFF) hs (fun v hv => v.tick_amp_le.trans hv) (fun _ _ => Nat.le_refl 0x7FFF)
    (fun _ _ _ hbound => hbound hi) fun _ _ _ hv => hv

theorem tick_params_mix_le {s : State} (hs : AmplitudesInRange s) : (tick params s).mix.toNat ≤ 64770 :=
  tick_mix_le params (Nat.le_refl 0x7FFF) (hs 1) (hs 2)

/-- The sample of a tick is in the range of R155: its mix is, and so is the master amplitude after step 6. -/
theorem sampleInRange_tick {s : State} (hs : AmplitudesInRange s) : SampleInRange (tick params s).pwm := by
  have hmaster : (tick params s).env[0].amp.toNat ≤ 0x7FFF := (Operation.tick rfl).keeps_amps trivial hs 0
  rw [tick_pwm]
  exact sampleInRange_finalise (by omega) (tick_params_mix_le hs)

theorem InContract.tick {s : State} (hs : InContract s) : InContract (tick params s) where
  events := by rw [tick_events]; exact hs.events
  amps := (Operation.tick rfl).keeps_amps trivial hs.amps
  mix := tick_params_mix_le hs.amps
  pwm := sampleInRange_tick hs.amps
  out := by
    rw [tick_out, List.forall_mem_append, List.forall_mem_singleton]
    exact ⟨hs.out, sampleInRange_tick hs.amps⟩

theorem Operation.keeps_inContract {i : Instr} {f : State → State} (h : Operation i f) (hi : KeepsContract i) {s : State}
    (hs : InContract s) : InContract (f s) := by
  obtain ⟨-, rfl⟩ | hframe := h.output_cases
  · exact hs.tick
  · obtain ⟨hout, hpwm, hmix⟩ := hframe s
    exact ⟨by rw [h.events]; exact hs.events, h.keeps_amps hi hs.amps, by rw [hmix]; exact hs.mix, by rw [hpwm]; exact hs.pwm,
      by rw [hout]; exact hs.out⟩

/-- The contract speaks of the events to come, so it holds with fewer of them. -/
theorem InContract.of_cons {s : State} {w : EventWord} {rest : List EventWord} (hs : InContract s) (h : s.events = w :: rest) :
    KeepsContract (decodeWord w) ∧ InContract { s with events := rest } := by
  have hall := hs.events
  rw [h, List.forall_mem_cons] at hall
  exact ⟨hall.1, { hs with events := hall.2 }⟩

/-- Settles O48: the event taken keeps the contract, and its operation keeps the ranges. -/
theorem stepKeepsTheContractRanges : Obligations.StepKeepsTheContractRanges := by
  intro s t hs hstep
  refine step_keeps hs hstep fun w rest f hevents hf => ?_
  obtain ⟨hw, hrest⟩ := hs.of_cons hevents
  exact hf.keeps_inContract hw hrest

/-! ### Reset (R36, R230) -/

theorem amplitudesInRange_reset : AmplitudesInRange State.reset := fun e => by
  rw [State.reset_env_get]
  exact Nat.zero_le _

theorem inContract_reset : InContract State.reset where
  events := List.forall_mem_nil _
  amps := amplitudesInRange_reset
  mix := Nat.zero_le _
  pwm := by rw [SampleInRange]; decide
  out := List.forall_mem_nil _

theorem countersBelowWrap_reset : CountersBelowWrap State.reset := fun e => by
  rw [State.reset_env_get]
  exact Nat.zero_le _

/-- Settles O12: the three invariants at reset, and the reset pin by its definition. -/
theorem resetMeetsTheInvariants : Obligations.ResetMeetsTheInvariants :=
  ⟨inContract_reset, countersBelowWrap_reset, rfl, fun _ => rfl⟩

end Sys2Proof.Machine
end

section
/-! Pairs of states (10_state.md R20, column "read by"; 42_grain.md R130): what an operation reads is no more than the fields it is
given alike. -/

namespace Sys2Proof.Machine

/-! ### The fields no event reads (R25, R28, R29, R30) -/

/-- The state with other flags, velocity, mix, output and trace. -/
def State.withUnread (s : State) (ovf : Vector Bool 4) (vel : Byte) (mix : Word) (pwm : Byte) (out : List Byte) : State :=
  { s with ovf := ovf, note := { s.note with vel := vel }, mix := mix, pwm := pwm, out := out }

theorem SameInputs.eq_withUnread {s t : State} (h : SameInputs s t) : t = s.withUnread t.ovf t.note.vel t.mix t.pwm t.out := by
  obtain ⟨acc, env, gate, num, events, draws⟩ := h
  exact State.ext' acc.symm rfl env.symm gate.symm (congrArg (Note.mk · t.note.vel) num.symm) rfl rfl rfl events.symm draws.symm

section
variable {s t : State} (h : SameInputs s t)
include h

theorem SameInputs.syncWraps (g : Fin 2) : syncWraps g s = syncWraps g t := by rw [Machine.syncWraps, Machine.syncWraps, h.acc]

theorem SameInputs.grainStart (g : Fin 2) : grainStart g s = grainStart g t := by
  rw [Machine.grainStart, Machine.grainStart, h.syncWraps, h.acc]

theorem SameInputs.envelopeStart (p : Params) (g : Fin 2) : envelopeStart p g s = envelopeStart p g t := by
  rw [Machine.envelopeStart, Machine.envelopeStart, h.syncWraps, h.env]

theorem SameInputs.tick_env (p : Params) : (tick p s).env = (tick p t).env := by
  rw [Machine.tick_env, Machine.tick_env, h.envelopeStart, h.envelopeStart, h.env, h.gate]

theorem SameInputs.tick (p : Params) : SameInputs (tick p s) (tick p t) where
  acc := by rw [tick_acc, tick_acc, h.grainStart, h.grainStart, h.acc]
  env := h.tick_env p
  gate := by rw [tick_gate, tick_gate, h.gate]
  num := by rw [tick_note, tick_note, h.num]
  events := by rw [tick_events, tick_events, h.events]
  draws := by rw [tick_draws, tick_draws, h.draws]

/-- A tick writes all four flags. -/
theorem SameInputs.tick_ovf (p : Params) : (Machine.tick p s).ovf = (Machine.tick p t).ovf := by
  rw [Machine.tick_ovf, Machine.tick_ovf, h.grainStart, h.grainStart, h.syncWraps, h.syncWraps, h.acc]
  ext j hj
  interval_cases j <;> simp

theorem SameInputs.tick_mix (p : Params) : (Machine.tick p s).mix = (Machine.tick p t).mix := by
  rw [Machine.tick_mix, Machine.tick_mix, h.grainStart, h.grainStart, h.envelopeStart, h.envelopeStart, h.acc]

theorem SameInputs.tick_pwm (p : Params) : (Machine.tick p s).pwm = (Machine.tick p t).pwm := by
  rw [Machine.tick_pwm, Machine.tick_pwm, h.tick_mix, h.tick_env]

theorem SameInputs.setIncLookup (k : Fin 4) (lookup : Option Word) : SameInputs (setIncLookup k lookup s) (setIncLookup k lookup t) where
  acc := by rw [setIncLookup_acc_eq, setIncLookup_acc_eq, h.acc, h.draws]
  env := by rw [setIncLookup_env, setIncLookup_env, h.env]
  gate := by rw [setIncLookup_gate, setIncLookup_gate, h.gate]
  num := by rw [setIncLookup_note, setIncLookup_note, h.num]
  events := by rw [setIncLookup_events, setIncLookup_events, h.events]
  draws := by rw [setIncLookup_draws, setIncLookup_draws, h.draws]

theorem SameInputs.noteRelease (b : Byte) : SameInputs (noteRelease b s) (noteRelease b t) := by
  by_cases hb : b = s.note.num
  · rw [noteRelease_of_held hb, noteRelease_of_held (hb.trans h.num)]
    exact { h with gate := rfl }
  · rw [noteRelease_of_ne hb, noteRelease_of_ne (h.num ▸ hb)]
    exact h

theorem SameInputs.noteStart (p : Params) (b c : Byte) : SameInputs (noteStart p b c s) (noteStart p b c t) := by
  have hloaded : SameInputs (envReset 0 (velocityAmp c) p.masterDecay p.masterDivider ((s.setNote ⟨b, c⟩).setGate .opened))
      (envReset 0 (velocityAmp c) p.masterDecay p.masterDivider ((t.setNote ⟨b, c⟩).setGate .opened)) := by
    rw [h.eq_withUnread]
    exact ⟨rfl, rfl, rfl, rfl, rfl, rfl⟩
  exact (hloaded.setIncLookup 0 _).setIncLookup 1 _

/-- Every operation reads these fields alone; the ones that make no choice compute with them as they stand. -/
theorem Operation.sameInputs {i : Instr} {f : State → State} (hf : Operation i f) : SameInputs (f s) (f t) := by
  cases hf with
  | tick => exact h.tick params
  | setInc k lookup => exact h.setIncLookup k lookup
  | noteStart b c => exact h.noteStart params b c
  | noteRelease b => exact h.noteRelease b
  | nothing | advance | modulate | envReset | setDecay | envTick | grainReset | pitchBend =>
    rw [h.eq_withUnread]
    exact ⟨rfl, rfl, rfl, rfl, rfl, rfl⟩

end

/-- Settles O51: the operation of the instruction on both states, and the flags and output of a tick. -/
theorem flagsVelocityAndOutputAreNeverInputs : Obligations.FlagsVelocityAndOutputAreNeverInputs := by
  intro i s t h
  obtain ⟨f, hf, hnext⟩ := exec_operation i
  refine ⟨f s, f t, hnext s, hnext t, hf.sameInputs h, fun hi => ?tick⟩
  case tick =>
    subst hi
    obtain rfl : f = tick params := funext fun u => outcome_next_inj ((hnext u).symm.trans (exec_tick u))
    exact ⟨h.tick_ovf params, h.tick_mix params, h.tick_pwm params⟩

/-! ### One grain and its sync accumulator (R130) -/

section
variable {s t : State} {g : Fin 2} (h : SameGrain g s t)
include h

/-- The grain's own two accumulators have the same contents in both states. -/
theorem SameGrain.acc_eq {k : Fin 4} (hk : syncAcc g = k ∨ grainAcc g = k) : s.acc[k] = t.acc[k] := by
  obtain rfl | rfl := hk
  · exact h.sync
  · exact h.acc

theorem SameGrain.env_eq {e : Fin 3} (he : grainEnv g = e) : s.env[e] = t.env[e] := by
  subst he
  exact h.env

/-- A write of one position, to the same value in both states where it is one of the grain's own two. -/
theorem SameGrain.setPos {k : Fin 4} {v w : Word} (hvw : syncAcc g = k ∨ grainAcc g = k → v = w) :
    SameGrain g (s.setPos k v) (t.setPos k w) where
  sync := get_set_congr h.sync fun hk => by rw [h.acc_eq (.inl hk), hvw (.inl hk)]
  acc := get_set_congr h.acc fun hk => by rw [h.acc_eq (.inr hk), hvw (.inr hk)]
  env := h.env
  draws := h.draws

/-- A write of one envelope, to the same value in both states where it is the grain's own. -/
theorem SameGrain.setEnv {e : Fin 3} {v w : Envelope} (hvw : grainEnv g = e → v = w) : SameGrain g (s.setEnv e v) (t.setEnv e w) :=
  ⟨h.sync, h.acc, get_set_congr h.env hvw, h.draws⟩

theorem SameGrain.advance (k : Fin 4) : SameGrain g (advance k s) (advance k t) := by
  obtain ⟨sync, acc, env, draws⟩ :=
    h.setPos (v := s.acc[k].pos + s.acc[k].inc) (w := t.acc[k].pos + t.acc[k].inc) fun hk => by rw [h.acc_eq hk]
  exact ⟨sync, acc, env, draws⟩

theorem SameGrain.modulate (k : Fin 4) (d : Word) : SameGrain g (modulate k d s) (modulate k d t) :=
  h.setPos fun hk => by rw [h.acc_eq hk]

theorem SameGrain.grainReset (p : Params) (j : Fin 2) : SameGrain g (grainReset p j s) (grainReset p j t) := by
  refine (h.setPos fun _ => rfl).setEnv fun he => ?_
  rw [State.setPos_env, State.setPos_env, h.env_eq he]

theorem SameGrain.setIncLookup (k : Fin 4) (lookup : Option Word) :
    SameGrain g (setIncLookup k lookup s) (setIncLookup k lookup t) where
  sync := by
    rw [setIncLookup_acc_eq, setIncLookup_acc_eq, h.draws]
    exact get_set_congr h.sync fun hk => by rw [h.acc_eq (.inl hk)]
  acc := by
    rw [setIncLookup_acc_eq, setIncLookup_acc_eq, h.draws]
    exact get_set_congr h.acc fun hk => by rw [h.acc_eq (.inr hk)]
  env := by rw [setIncLookup_env, setIncLookup_env, h.env]
  draws := by rw [setIncLookup_draws, setIncLookup_draws, h.draws]

theorem SameGrain.syncWraps : syncWraps g s = syncWraps g t := by rw [Machine.syncWraps, Machine.syncWraps, h.sync]

theorem SameGrain.tick (p : Params) : SameGrain g (tick p s) (tick p t) where
  sync := by rw [tick_acc_sync, tick_acc_sync, h.sync]
  acc := by rw [tick_acc_grain, tick_acc_grain, grainStart, grainStart, h.syncWraps, h.acc]
  env := by rw [tick_env_grain, tick_env_grain, envelopeStart, envelopeStart, h.syncWraps, h.env]
  draws := by rw [tick_draws, tick_draws, h.draws]

theorem SameGrain.noteStart (p : Params) (b c : Byte) : SameGrain g (noteStart p b c s) (noteStart p b c t) := by
  have hloaded : SameGrain g ((s.setNote ⟨b, c⟩).setGate .opened) ((t.setNote ⟨b, c⟩).setGate .opened) :=
    ⟨h.sync, h.acc, h.env, h.draws⟩
  exact ((hloaded.setEnv fun _ => rfl).setIncLookup 0 _).setIncLookup 1 _

theorem SameGrain.noteRelease (b : Byte) : SameGrain g (noteRelease b s) (noteRelease b t) where
  sync := by rw [noteRelease_acc, noteRelease_acc, h.sync]
  acc := by rw [noteRelease_acc, noteRelease_acc, h.acc]
  env := by rw [noteRelease_env, noteRelease_env, h.env]
  draws := by rw [noteRelease_draws, noteRelease_draws, h.draws]

/-- What an operation does to a grain and its sync accumulator, it does from those alone. -/
theorem Operation.sameGrain {i : Instr} {f : State → State} (hf : Operation i f) : SameGrain g (f s) (f t) := by
  cases hf with
  | nothing => exact h
  | tick => exact h.tick params
  | advance k => exact h.advance k
  | modulate k d => exact h.modulate k d
  | setInc k lookup => exact h.setIncLookup k lookup
  | envReset e a d v => exact h.setEnv fun _ => rfl
  | setDecay e d v => exact h.setEnv fun he => by rw [h.env_eq he]
  | envTick e => exact h.setEnv fun he => by rw [h.env_eq he]
  | grainReset j => exact h.grainReset params j
  | noteStart b c => exact h.noteStart params b c
  | noteRelease b => exact h.noteRelease b
  | pitchBend a => exact (h.modulate 0 _).modulate 1 _

end

/-- Settles O52: the operation of the instruction on both states. -/
theorem grainsAreUncoupled : Obligations.GrainsAreUncoupled := by
  intro g i s t h
  obtain ⟨f, hf, hnext⟩ := exec_operation i
  exact ⟨f s, f t, hnext s, hnext t, hf.sameGrain h⟩

end Sys2Proof.Machine
end

section
/-! Laws of the accumulator and of the envelope: modulations add up (40_phase_accumulator.md R93), the rate of overflows (R96), and what a
decay step does to the amplitude (41_envelope.md R118 to R120). -/

namespace Sys2Proof.Machine

/-! ### Modulation (R93) -/

section
variable (k : Fin 4) (s : State)

theorem modulate_pos_self (d : Word) : (modulate k d s).acc[k].pos = s.acc[k].pos + d := by rw [modulate_acc, get_set_self]

theorem modulate_modulate (d1 d2 : Word) : modulate k d2 (modulate k d1 s) = modulate k (d1 + d2) s := by
  have hacc : (modulate k d2 (modulate k d1 s)).acc = (modulate k (d1 + d2) s).acc := by
    rw [modulate_acc, modulate_acc, modulate_acc, get_set_self, Vector.set_set, add_assoc]
  exact State.ext' hacc rfl rfl rfl rfl rfl rfl rfl rfl rfl

/-- The delta read as signed gives the same sum modulo 2^16. -/
theorem toNat_add_eq_toInt (x d : Word) : ((x + d).toNat : Int) = ((x.toNat : Int) + d.toInt) % 65536 := by
  rw [BitVec.toNat_add, BitVec.toInt_eq_toNat_cond]
  split <;> omega

/-! ### The rate law (R96) -/

theorem advance_inc_self : (advance k s).acc[k].inc = s.acc[k].inc := by rw [advance_acc, get_set_self]

/-- The flag of an advance is the carry of its sum. -/
theorem toNat_advance_ovf_self : (advance k s).ovf[k].toNat = (s.acc[k].pos.toNat + s.acc[k].inc.toNat) / 65536 := by
  have hpos := s.acc[k].pos.isLt
  have hinc := s.acc[k].inc.isLt
  have hflag : (advance k s).ovf[k] = decide (65536 ≤ s.acc[k].pos.toNat + s.acc[k].inc.toNat) := by
    rw [Bool.eq_iff_iff, advance_ovf_self, wrapped_add_iff, decide_eq_true_iff]
  rw [hflag]
  by_cases hcarry : 65536 ≤ s.acc[k].pos.toNat + s.acc[k].inc.toNat
  · rw [decide_eq_true hcarry, Bool.toNat_true]; omega
  · rw [decide_eq_false hcarry, Bool.toNat_false]; omega

theorem wrapsIn_succ (n : Nat) : wrapsIn k (n + 1) s = (advance k s).ovf[k].toNat + wrapsIn k n (advance k s) := by
  rw [wrapsIn, exec_paAdvance_ofNat]

end

/-- The carries of the advances add up to the carry of the whole sum. -/
theorem wrapsIn_eq (n : Nat) (k : Fin 4) (s : State) : wrapsIn k n s = (s.acc[k].pos.toNat + n * s.acc[k].inc.toNat) / 65536 := by
  induction n generalizing s with
  | zero =>
    have hpos := s.acc[k].pos.isLt
    rw [wrapsIn]
    omega
  | succ n ih =>
    rw [wrapsIn_succ, ih, toNat_advance_ovf_self, advance_pos_self, advance_inc_self, BitVec.toNat_add, Nat.succ_mul]
    omega

/-- Settles O19, by induction on the number of advances. -/
theorem overflowCountFollowsTheRateLaw : Obligations.OverflowCountFollowsTheRateLaw := wrapsIn_eq

/-- Settles O16: the sum of two deltas, the delta as signed, and the delta that reaches a given position. -/
theorem modulationsAddUp : Obligations.ModulationsAddUp := by
  intro k s
  refine ⟨modulate_modulate k s, fun d => ⟨_, exec_paModulate_ofNat k d s, ?signed⟩,
    fun q => ⟨_, exec_paModulate_ofNat k _ s, ?target, modulate_ovf k _ s⟩⟩
  case signed => rw [modulate_pos_self, toNat_add_eq_toInt]
  case target => rw [modulate_pos_self, add_sub_cancel]

/-! ### The decay step (R118, R119) -/

section
variable (amp : Word)

theorem decrement_of_lt {dec : Byte} (h : dec.toNat < 16) : (decrement amp dec).toNat = amp.toNat / 2 ^ dec.toNat := by
  rw [decrement_toNat, if_neg h.not_ge]

theorem decrement_of_ge {dec : Byte} (h : 16 ≤ dec.toNat) : decrement amp dec = 0 := if_pos h

theorem decrement_eq_zero_iff (dec : Byte) : (decrement amp dec).toNat = 0 ↔ 16 ≤ dec.toNat ∨ amp.toNat < 2 ^ dec.toNat := by
  rw [decrement_toNat]
  split
  case isTrue h => exact iff_of_true rfl (.inl h)
  case isFalse h => rw [Nat.div_eq_zero_iff_lt (by positivity), or_iff_right h]

/-- A decay step changes nothing exactly when it takes off nothing. -/
theorem decayed_eq_self_iff (dec : Byte) : decayed amp dec = amp ↔ 16 ≤ dec.toNat ∨ amp.toNat < 2 ^ dec.toNat := by
  have hsum := decayed_add_decrement amp dec
  rw [← decrement_eq_zero_iff, ← BitVec.toNat_inj]
  omega

/-- Decay rate 1 takes off half, rounded down. -/
theorem decayed_one_toNat : (decayed amp 1).toNat = (amp.toNat + 1) / 2 := by
  have hhalf : (decrement amp 1).toNat = amp.toNat / 2 := decrement_of_lt amp (by decide)
  rw [decayed_toNat, hhalf]
  omega

/-- Decay rate 0 takes off everything. -/
theorem decayed_zero : decayed amp 0 = 0 := by
  have hall : (decrement amp 0).toNat = amp.toNat := (decrement_of_lt amp (by decide)).trans (Nat.div_one _)
  apply BitVec.eq_of_toNat_eq
  rw [decayed_toNat, hall, Nat.sub_self]
  rfl

end

/-! ### The dividers 0 and 1 (R120) -/

theorem Envelope.tick_of_reached {v : Envelope} (h : v.div.toNat ≤ (v.cnt + 1).toNat) :
    v.tick = ⟨decayed v.amp v.dec, v.dec, v.div, 0⟩ := by
  rcases v.tick_cases with ⟨-, htick⟩ | ⟨hbelow, -⟩
  · exact htick
  · omega

theorem one_le_toNat_add_one {c : Byte} (h : c.toNat ≤ 254) : 1 ≤ (c + 1).toNat := by
  rw [toNat_add_one_byte]
  omega

/-- Settles O24: when a decay step takes off nothing, the rates 1 and 0, the decrement, and the dividers every counter reaches. -/
theorem decayFixedPoints : Obligations.DecayFixedPoints := by
  refine ⟨decayed_eq_self_iff, decayed_one_toNat, fun amp => ?nonzero, decayed_zero,
    fun amp dec => ⟨decrement_of_lt amp, decrement_of_ge amp⟩, fun v => ⟨?divider0, fun hcnt => ?divider1⟩⟩
  case nonzero =>
    rw [decayed_one_toNat]
    omega
  case divider0 => exact Envelope.tick_of_reached (Nat.zero_le _)
  case divider1 => exact Envelope.tick_of_reached (one_le_toNat_add_one hcnt)

end Sys2Proof.Machine
end

section
/-! The contents of the tables (44_lookup_tables.md R174, R177; 42_grain.md R138) and the rest of the read port (20_memory.md R51): the
tables at their addresses, and that the registers can be read back from the map (10_state.md R32). -/

namespace Sys2Proof.Machine

/-! ### ANTILOG (R174) -/

/-- Entry `i` before rounding. -/
noncomputable def antilogValue (i : ℕ) : ℝ := (65536 : ℝ) * (2 : ℝ) ^ (-((i : ℝ) + 1) / 64)

theorem antilogValue_nonneg (i : ℕ) : 0 ≤ antilogValue i := by
  unfold antilogValue
  positivity

/-- Sixty-four entries halve the value. -/
theorem antilogValue_pow (i : ℕ) : antilogValue i ^ 64 = ((65536 ^ 64 : ℕ) : ℝ) / ((2 ^ (i + 1) : ℕ) : ℝ) := by
  have hhalves : ((2 : ℝ) ^ (-((i : ℝ) + 1) / 64)) ^ 64 = (2 ^ (i + 1))⁻¹ := by
    rw [← Real.rpow_mul_natCast two_pos.le, Nat.cast_ofNat, div_mul_cancel₀ _ (by norm_num), Real.rpow_neg two_pos.le]
    norm_cast
  rw [antilogValue, mul_pow, hhalves, div_eq_mul_inv]
  simp only [Nat.cast_pow, Nat.cast_ofNat]

/-- The half-integers on both sides of an entry enclose the formula, compared as 64th powers. -/
theorem antilog_encloses (i : Fin 64) :
    (2 * (params.antilog i).toNat - 1) ^ 64 * 2 ^ (i.val + 1) ≤ 2 ^ 64 * 65536 ^ 64 ∧
      2 ^ 64 * 65536 ^ 64 < (2 * (params.antilog i).toNat + 1) ^ 64 * 2 ^ (i.val + 1) := by
  revert i
  decide

/-- Settles O36: an entry is the rounded 64th root of a rational number. -/
theorem antilogDefaultHalvesOverTheTable : Obligations.AntilogDefaultHalvesOverTheTable := by
  intro i
  obtain ⟨hlow, hhigh⟩ := antilog_encloses i
  exact (round_eq_of_pow_eq_div (antilogValue_nonneg _) (by decide) (by positivity) (antilogValue_pow _) hlow hhigh).symm

/-! ### PENTA and WAVE (R177, R138) -/

theorem ofFn_penta :
    List.ofFn params.penta =
      0 :: ((List.finRange 128).filter fun p => decide (2 ≤ p.val) && ([2, 4, 7, 9, 11].contains (p.val % 12))).map chroma := by
  decide

theorem wave_waveIndex (pos : Word) : (params.wave (waveIndex pos)).toNat = pos.toNat / 256 := by
  have hpos := pos.isLt
  show (BitVec.ofNat 8 ((waveIndex pos).val >>> 1)).toNat = pos.toNat / 256
  rw [BitVec.toNat_ofNat, waveIndex_val, Nat.shiftRight_eq_div_pow]
  omega

/-- Settles O37: the list evaluated, and the index of `WAVE` halved. -/
theorem defaultTablesAreAsListed : Obligations.DefaultTablesAreAsListed := ⟨ofFn_penta, wave_waveIndex⟩

/-! ### The tables at their addresses (R51) -/

section
variable (s : State)

theorem toNat_addr {n : Nat} (h : n < 1024) : (BitVec.ofNat 10 n).toNat = n := (BitVec.toNat_ofNat _ _).trans (Nat.mod_eq_of_lt h)

theorem readPort_chroma (p : Fin 128) : readPort s (BitVec.ofNat 10 (0x100 + p.val)) = chroma p := by
  simp only [readPort, readPortWith, toNat_addr (show 0x100 + p.val < 1024 by omega)]
  rw [if_neg (by omega), dif_pos (by omega)]
  simp

theorem readPort_antilog (i : Fin 64) : readPort s (BitVec.ofNat 10 (0x180 + i.val)) = params.antilog i := by
  simp only [readPort, readPortWith, toNat_addr (show 0x180 + i.val < 1024 by omega)]
  rw [if_neg (by omega), dif_neg (by omega), dif_pos (by omega)]
  simp

theorem readPort_penta (i : Fin 54) : readPort s (BitVec.ofNat 10 (0x1C0 + i.val)) = params.penta i := by
  simp only [readPort, readPortWith, toNat_addr (show 0x1C0 + i.val < 1024 by omega)]
  rw [if_neg (by omega), dif_neg (by omega), dif_neg (by omega), dif_pos (by omega)]
  simp

theorem readPort_wave (i : Fin 512) : readPort s (BitVec.ofNat 10 (0x200 + i.val)) = (params.wave i).setWidth 16 := by
  simp only [readPort, readPortWith, toNat_addr (show 0x200 + i.val < 1024 by omega)]
  rw [if_neg (by omega), dif_neg (by omega), dif_neg (by omega), dif_neg (by omega), dif_pos (by omega)]
  simp

theorem readPort_reserved_table {a : BitVec 10} (hlo : 0x1F6 ≤ a.toNat) (hhi : a.toNat ≤ 0x1FF) : readPort s a = 0 := by
  simp only [readPort, readPortWith]
  rw [if_neg (by omega), dif_neg (by omega), dif_neg (by omega), dif_neg (by omega), dif_neg (by omega)]

/-- From 0x100 on the port reads no state. -/
theorem readPort_of_ge {a : BitVec 10} (h : 0x100 ≤ a.toNat) (t : State) : readPort s a = readPort t a := by
  rw [readPort, readPort, readPortWith, readPortWith, if_neg h.not_gt, if_neg h.not_gt]

end

/-- Settles O54: the four tables at their bases, and the two reserved gaps. -/
theorem tablesAndReservedAddressesReadTheSame : Obligations.TablesAndReservedAddressesReadTheSame := by
  intro s
  refine ⟨readPort_chroma s, readPort_antilog s, readPort_penta s, fun i => ?wave, fun a h => ?reserved⟩
  case wave => rw [readPort_wave, BitVec.toNat_setWidth_of_le (by decide)]
  case reserved =>
    obtain ⟨hlo, hhi⟩ | ⟨hlo, hhi⟩ := h
    · exact readPort_reserved_register s hlo hhi
    · exact readPort_reserved_table s hlo hhi

/-! ### The registers from the map (R32, R33) -/

theorem append_bytes_inj {x y x' y' : Byte} (h : x ++ y = x' ++ y') : x = x' ∧ y = y' := by
  have hnat := congrArg BitVec.toNat h
  rw [toNat_append_bytes, toNat_append_bytes] at hnat
  have hy := y.isLt
  have hy' := y'.isLt
  constructor <;> apply BitVec.eq_of_toNat_eq <;> omega

theorem setWidth_byte_inj {x y : Byte} (h : x.setWidth 16 = y.setWidth 16) : x = y := by
  have hnat := congrArg BitVec.toNat h
  rw [BitVec.toNat_setWidth_of_le (by decide), BitVec.toNat_setWidth_of_le (by decide)] at hnat
  exact BitVec.eq_of_toNat_eq hnat

theorem gateBit_injective : Function.Injective gateBit
  | .closed, .closed, _ => rfl
  | .opened, .opened, _ => rfl

theorem vector_ext_fin {α : Type} {n : Nat} {x y : Vector α n} (h : ∀ k : Fin n, x[k] = y[k]) : x = y :=
  Vector.ext fun i hi => h ⟨i, hi⟩

section
variable {s t : State} (h : ∀ a : BitVec 10, readPort s a = readPort t a)
include h

theorem acc_eq_of_readPort (k : Fin 4) : s.acc[k] = t.acc[k] := by
  have hpos := h (BitVec.ofNat 10 (2 * k.val))
  have hinc := h (BitVec.ofNat 10 (2 * k.val + 1))
  rw [readPort_pos, readPort_pos] at hpos
  rw [readPort_inc, readPort_inc] at hinc
  exact congrArg₂ PhaseAcc.mk hpos hinc

theorem env_eq_of_readPort (e : Fin 3) : s.env[e] = t.env[e] := by
  have hamp := h (BitVec.ofNat 10 (8 + 3 * e.val))
  have hcfg := h (BitVec.ofNat 10 (9 + 3 * e.val))
  have hcnt := h (BitVec.ofNat 10 (10 + 3 * e.val))
  rw [readPort_amp, readPort_amp] at hamp
  rw [readPort_cfg, readPort_cfg] at hcfg
  rw [readPort_cnt, readPort_cnt] at hcnt
  obtain ⟨hdec, hdiv⟩ := append_bytes_inj hcfg
  exact (Envelope.mk.injEq ..).mpr ⟨hamp, hdec, hdiv, setWidth_byte_inj hcnt⟩

theorem ovf_eq_of_readPort (k : Fin 4) : s.ovf[k] = t.ovf[k] := by
  rw [← statusWord_ovf, ← statusWord_ovf, ← readPort_status, ← readPort_status, h]

theorem gate_eq_of_readPort : s.gate = t.gate := by
  apply gateBit_injective
  rw [← statusWord_gate, ← statusWord_gate, ← readPort_status, ← readPort_status, h]

theorem note_eq_of_readPort : s.note = t.note := by
  have hnote := h 0x011
  rw [readPort_note, readPort_note] at hnote
  obtain ⟨hnum, hvel⟩ := append_bytes_inj hnote
  exact congrArg₂ Note.mk hnum hvel

theorem mix_eq_of_readPort : s.mix = t.mix := by rw [← readPort_mix, ← readPort_mix, h]

theorem pwm_eq_of_readPort : s.pwm = t.pwm := by
  have hpwm := h 0x014
  rw [readPort_pwm, readPort_pwm] at hpwm
  exact setWidth_byte_inj hpwm

end

/-- Settles O55: each register from the address that shows it. -/
theorem readPortDeterminesTheRegisters : Obligations.ReadPortDeterminesTheRegisters := fun _ _ h =>
  ⟨vector_ext_fin (acc_eq_of_readPort h), vector_ext_fin (ovf_eq_of_readPort h), vector_ext_fin (env_eq_of_readPort h),
    gate_eq_of_readPort h, note_eq_of_readPort h, mix_eq_of_readPort h, pwm_eq_of_readPort h⟩

/-! ### One increment through the port (R92, R22) -/

section
variable (p : Params) (k : Fin 4) (v : Word) (s : State)

theorem setInc_pos (j : Fin 4) : (s.setInc k v).acc[j].pos = s.acc[j].pos := by
  rw [State.setInc_acc]
  exact field_get_set PhaseAcc.pos fun _ => rfl

theorem setInc_inc (j : Fin 4) : (s.setInc k v).acc[j].inc = if j = k then v else s.acc[j].inc := by
  rw [State.setInc_get]
  split <;> rfl

/-- A sample reads no increment. -/
theorem sample_setInc (g : Fin 2) : sample p g (s.setInc k v) = sample p g s := by
  rw [sample, sample, setInc_pos]
  rfl

/-- Above the accumulators the map shows an increment nowhere. -/
theorem registerAt_setInc_of_ge {n : Nat} (h : 8 ≤ n) : registerAt p (s.setInc k v) n = registerAt p s n := by
  by_cases hres : 0x017 ≤ n
  · rw [registerAt_reserved _ _ hres, registerAt_reserved _ _ hres]
  · interval_cases n <;> simp only [registerAt, sample_setInc] <;> rfl

theorem registerAt_setInc (n : Nat) : registerAt p (s.setInc k v) n = if n = 2 * k.val + 1 then v else registerAt p s n := by
  by_cases hn : n < 8
  · obtain ⟨j, heven | hodd⟩ : ∃ j : Fin 4, n = 2 * j.val ∨ n = 2 * j.val + 1 := ⟨⟨n / 2, by omega⟩, by dsimp only; omega⟩
    · rw [heven, registerAt_pos, registerAt_pos, setInc_pos, if_neg (by omega)]
    · have hindex : n = 2 * k.val + 1 ↔ j = k := by rw [Fin.ext_iff]; omega
      simp only [hindex]
      rw [hodd, registerAt_inc, registerAt_inc, setInc_inc]
  · rw [registerAt_setInc_of_ge p k v s (by omega), if_neg (by omega)]

end

/-- Settles O56: below 0x100 the map after the write, above it the tables. -/
theorem paSetincChangesOneAddress : Obligations.PaSetincChangesOneAddress := by
  intro k v s
  refine ⟨_, exec_paSetinc_ofNat k v s, fun a => ?_⟩
  by_cases ha : a.toNat < 0x100
  · rw [readPort_of_lt _ ha, readPort_of_lt _ ha, registerAt_setInc]
  · rw [readPort_of_ge (s.setInc k v) (by omega) s, if_neg (by omega)]

end Sys2Proof.Machine
end

section
/-! The boundary of the block: the one sequence the two request sources become (20_memory.md R59, 60_exceptions.md R214), and the
assembler's text and pseudo-instructions (30_encoding.md R79, R80). -/

namespace Sys2Proof.Machine

/-! ### The words of one moment -/

section
variable (r : Request)

theorem words_length : r.words.length = (if r.tick then 1 else 0) + r.cmd.toList.length := by
  rw [Request.words, List.length_append]
  split <;> rfl

/-- Without the word of the tick pin the command is left, unless it is a TICK itself. -/
theorem words_filter_ne_tickWord (h : r.cmd ≠ some tickWord) : r.words.filter (fun w => decide (w ≠ tickWord)) = r.cmd.toList := by
  have htick : (if r.tick then [tickWord] else []).filter (fun w => decide (w ≠ tickWord)) = [] := by split <;> rfl
  have hcmd : r.cmd.toList.filter (fun w => decide (w ≠ tickWord)) = r.cmd.toList := by
    rw [List.filter_eq_self]
    intro w hw
    exact decide_eq_true fun hw' => h (by rw [Option.mem_toList.mp hw, hw'])
  rw [Request.words, List.filter_append, htick, hcmd, List.nil_append]

end

/-! ### The sequence, moment by moment -/

section
variable (r : Request) (rs qs : List Request)

theorem serialise_cons : serialise (r :: rs) = r.words ++ serialise rs := List.flatMap_cons

theorem serialise_append : serialise (rs ++ qs) = serialise rs ++ serialise qs := List.flatMap_append

theorem filterMap_cmd_cons : (r :: rs).filterMap Request.cmd = r.cmd.toList ++ rs.filterMap Request.cmd := by
  rw [List.filterMap_cons]
  cases r.cmd <;> rfl

theorem filter_tick_length_cons :
    ((r :: rs).filter Request.tick).length = (if r.tick then 1 else 0) + (rs.filter Request.tick).length := by
  rw [List.filter_cons]
  split <;> simp [Nat.add_comm]

theorem filterMap_cmd_sublist_serialise : (rs.filterMap Request.cmd).Sublist (serialise rs) := by
  induction rs with
  | nil => exact List.Sublist.slnil
  | cons r rs ih =>
    rw [filterMap_cmd_cons, serialise_cons]
    exact (List.sublist_append_right _ _).append ih

theorem serialise_length : (serialise rs).length = (rs.filter Request.tick).length + (rs.filterMap Request.cmd).length := by
  induction rs with
  | nil => rfl
  | cons r rs ih =>
    rw [serialise_cons, filterMap_cmd_cons, List.length_append, List.length_append, words_length, filter_tick_length_cons, ih]
    omega

variable {rs}

theorem serialise_filter_ne_tickWord (h : ∀ r ∈ rs, r.cmd ≠ some tickWord) :
    (serialise rs).filter (fun w => decide (w ≠ tickWord)) = rs.filterMap Request.cmd := by
  induction rs with
  | nil => rfl
  | cons r rs ih =>
    rw [List.forall_mem_cons] at h
    rw [serialise_cons, filterMap_cmd_cons, List.filter_append, words_filter_ne_tickWord r h.1, ih h.2]

end

theorem foldl_request_events (rs : List Request) (s : State) : (rs.foldl State.request s).events = s.events ++ serialise rs := by
  induction rs generalizing s with
  | nil => exact (List.append_nil _).symm
  | cons r rs ih => rw [List.foldl_cons, ih, serialise_cons, ← List.append_assoc]; rfl

/-- Settles O57: the words of one moment, and their sequence by induction on the moments. -/
theorem requestsBecomeOneSequence : Obligations.RequestsBecomeOneSequence :=
  ⟨fun _ => ⟨rfl, rfl, rfl, rfl⟩, by decide, serialise_append, filterMap_cmd_sublist_serialise, serialise_length,
    fun _ => serialise_filter_ne_tickWord, foldl_request_events⟩

/-! ### The assembler (R79, R80) -/

/-- Settles O58: six lines assembled, and the six expansions. -/
theorem assemblerFollowsTheSyntax : Obligations.AssemblerFollowsTheSyntax := by
  refine ⟨by decide, by decide, by decide, by decide, by decide, by decide, fun _ _ => rfl, fun _ _ => rfl, fun _ => rfl, fun _ => rfl,
    fun _ _ _ => rfl, fun _ _ => rfl⟩

end Sys2Proof.Machine
end
